-- ==== Sys2Proof/Word.lean ====
section
/-! DEFINITION. The value types of the shifter: plain bit vectors (00_scope.md R7, 10_state.md R11 to R13, 30_encoding.md R30). -/

namespace Sys2Proof

/-- A byte, the granule of every shift (10_state.md R12). -/
abbrev Byte := BitVec 8

/-- A lane: a 128-bit half of a Vector Register value (10_state.md R13). -/
abbrev Lane := BitVec 128

/-- A Vector Register value: the type of the operand `a` and of the result `r` (10_state.md R11). -/
abbrev Value256 := BitVec 256

/-- The 10-bit command word `cmd[9:0]` (30_encoding.md R30). -/
abbrev CmdWord := BitVec 10

/-- The shift amount field `offs`, counted in elements (30_encoding.md R33). -/
abbrev Amount := BitVec 6

/-- The zero lane (40_lane_primitives.md R42). -/
abbrev zero128 : Lane := 0#128

/-- The all-zero register (40_lane_primitives.md R42). -/
abbrev zero256 : Value256 := 0#256

end Sys2Proof
end

