-- ==== Sys2Proof/Config.lean ====
section
/-! DEFINITION. The parameters of the shifter (00_scope.md R5) and the free values (60_exceptions.md R92, 70_reset_and_hazards.md R101). -/

namespace Sys2Proof.Config

/-- `REG_BITS`: width of the operand and of the result (R5). -/
def regBits : Nat := 256

/-- `REG_BYTES`: the physical width that `elem_n` divides (R5, 90_conflicts.md C5). -/
def regBytes : Nat := 32

/-- `LANES` (R5). -/
def lanes : Nat := 2

/-- `LANE_BITS` (R5). -/
def laneBits : Nat := 128

/-- `LANE_BYTES` (R5). -/
def laneBytes : Nat := 16

/-- `CMD_BITS` (R5). -/
def cmdBits : Nat := 10

/-- `OFFS_W` (R5). -/
def offsWidth : Nat := 6

/-- `LGN_W` (R5). -/
def lgnWidth : Nat := 3

/-- The largest amount the `offs` field holds; the assembler folds larger amounts to it (30_encoding.md R39). -/
def maxAmount : Nat := 63

/-- The default of the open parameter `LAT` (70_reset_and_hazards.md R106): combinational.
Only `State.reset` uses it; `LAT` itself is the number of pipeline registers a state has (log 1). -/
def defaultLat : Nat := 0

/-- FREE VALUE (log 7): what the wire `rsp_r` shows when the spec leaves it unspecified
(60_exceptions.md R92: any 256-bit value, possibly different each time; R101). -/
opaque openRspR : Nat → Value256

/-- FREE VALUE (log 7): what the wire `rsp_ill` shows while `rsp_valid = 0` (70_reset_and_hazards.md R101). -/
opaque openRspIll : Nat → Bool

end Sys2Proof.Config
end

