-- ==== Sys2Proof/Syntax.lean ====
section
/-! DEFINITION. The instructions as syntax: one constructor per row of spec/opcode_table.json. -/

namespace Sys2Proof

/-- The direction of a shift, the field `dir` (30_encoding.md R31). -/
inductive Dir where
  /-- `dir = 0`: toward higher index. -/
  | left
  /-- `dir = 1`: toward lower index. -/
  | right
  deriving DecidableEq, Repr

/-- The six legal element counts, named as the assembler writes them (30_encoding.md R32, R38).
A count that does not divide the 32 bytes has no name here (93_implementation_defined.md U5). -/
inductive ElemCount where
  | n1 | n2 | n4 | n8 | n16 | n32
  deriving DecidableEq, Repr

/-- The instruction a command word stands for. -/
inductive Instr where
  /-- VSHL, shift elements left (42_shift_left.md R60). -/
  | vshl (n : ElemCount) (offs : Amount)
  /-- VSHR, shift elements right (43_shift_right.md R70). -/
  | vshr (n : ElemCount) (offs : Amount)
  /-- ILLEGAL, a reserved command word; it carries the word, as `raise IllegalCommand(cmd)` does
  (30_encoding.md R36, 60_exceptions.md R91). -/
  | illegal (cmd : CmdWord)
  deriving DecidableEq, Repr

end Sys2Proof
end

