-- ==== Sys2Proof/WellFormed.lean ====
section
/-! DEFINITION. Which instruction terms some command word encodes (30_encoding.md R36). -/

namespace Sys2Proof

/-- VSHL and VSHR are well formed for every element count and amount (30_encoding.md R33);
ILLEGAL only for a word with `cmd[8:7] = 0b11` (R36). -/
def Instr.wf : Instr → Bool
  | .vshl _ _ => true
  | .vshr _ _ => true
  | .illegal cmd => cmd.extractLsb' 7 2 == 3#2

end Sys2Proof
end

