-- ==== Sys2Proof/Decode.lean ====
section
/-! DEFINITION. Decoding a command word, and the encoder written from the same fields (30_encoding.md R30 to R37). -/

namespace Sys2Proof

/-- The field `dir`, bit 9 (30_encoding.md R30). -/
def dirField (cmd : CmdWord) : BitVec 1 := cmd.extractLsb' 9 1

/-- The field `lgn`, bits 8:6 (30_encoding.md R30). -/
def lgnField (cmd : CmdWord) : BitVec 3 := cmd.extractLsb' 6 3

/-- The field `offs`, bits 5:0 (30_encoding.md R30). -/
def offsField (cmd : CmdWord) : Amount := cmd.extractLsb' 0 6

/-- The element count of an `lgn` code; 6 and 7 are reserved (30_encoding.md R32, R36). -/
def ElemCount.ofLgn? (lgn : BitVec 3) : Option ElemCount :=
  match lgn.toNat with
  | 0 => some .n1
  | 1 => some .n2
  | 2 => some .n4
  | 3 => some .n8
  | 4 => some .n16
  | 5 => some .n32
  | _ => none

/-- The `lgn` code of an element count: its base-2 logarithm (30_encoding.md R32). -/
def ElemCount.lgn : ElemCount → BitVec 3
  | .n1 => 0
  | .n2 => 1
  | .n4 => 2
  | .n8 => 3
  | .n16 => 4
  | .n32 => 5

/-- The shift instruction of a direction (30_encoding.md R31). -/
def Instr.shift (d : Dir) (n : ElemCount) (offs : Amount) : Instr :=
  match d with
  | .left => .vshl n offs
  | .right => .vshr n offs

/-- The direction named by the field `dir` (30_encoding.md R31). -/
def Dir.ofField (b : BitVec 1) : Dir := if b = 0 then .left else .right

/-- The value of the field `dir` (30_encoding.md R31). -/
def Dir.field : Dir → BitVec 1
  | .left => 0
  | .right => 1

/-- Decoding, total on the 1024 command words: the reserved `lgn` codes first, then bit 9
(30_encoding.md R35, 60_exceptions.md R91). -/
def decode (cmd : CmdWord) : Instr :=
  match ElemCount.ofLgn? (lgnField cmd) with
  | none => .illegal cmd
  | some n => .shift (.ofField (dirField cmd)) n (offsField cmd)

/-- Why a number is no command word. -/
inductive DecodeReject where
  /-- The number needs more than the 10 bits of a command word (30_encoding.md R37). -/
  | widerThanCommand
  deriving DecidableEq, Repr

/-- Decoding of a number given as bits: a command word is 10 bits, and nothing wider is one
(30_encoding.md R37; log 11). -/
def decodeBits (w : Nat) : Except DecodeReject Instr :=
  if w < 2 ^ Config.cmdBits then .ok (decode (BitVec.ofNat 10 w)) else .error .widerThanCommand

/-- The instruction of an opcode-table word of `nbits` bits, every higher bit being 0. -/
def decodeTableWord (nbits w : Nat) : Option Instr :=
  match decodeBits (w % 2 ^ nbits) with
  | .ok i => some i
  | .error _ => none

/-- The word of the three fields, `dir` in the most significant place (30_encoding.md R30). -/
def packCmd (dir : BitVec 1) (lgn : BitVec 3) (offs : Amount) : CmdWord := dir ++ lgn ++ offs

/-- The command word of an instruction (30_encoding.md R30, R35). -/
def encode : Instr → CmdWord
  | .vshl n offs => packCmd 0 n.lgn offs
  | .vshr n offs => packCmd 1 n.lgn offs
  | .illegal cmd => cmd

end Sys2Proof
end

