-- ==== Sys2Proof/Machine/State.lean ====
section
/-! DEFINITION. The state of the machine as plain data, the reasons a transaction or a step can end without a value, and the state after reset. -/

namespace Sys2Proof.Machine

/-- The one exception of the shifter. -/
inductive Fault where
  /-- A reserved command word, cause code 1 (60_exceptions.md R91). Raised by ILLEGAL alone, in the RESPONSE
  of its request (R92); no step ends in it, because the machine goes on (R96). Safe: the response carries no value. -/
  | illegalCommand
  deriving DecidableEq, Repr

/-- Why an instruction has no meaning in the model. -/
inductive Refusal where
  /-- An arm of exec without a meaning, by its mnemonic. No arm raises it: every row of the table has its meaning. Safe. -/
  | notModelled (mnemonic : String)
  deriving DecidableEq, Repr

/-- What one transaction gives back: a result value, or a fault and NO value
(00_scope.md R9, 60_exceptions.md R92). -/
inductive Response where
  /-- `ill = 0` and `r` (00_scope.md R8, `return v`). -/
  | result (r : Value256)
  /-- `ill = 1`; `rsp_r` is unspecified, so there is no value here (60_exceptions.md R92). -/
  | fault (f : Fault)
  deriving DecidableEq, Repr

/-- What the host drives on the input ports during one clock cycle (20_memory.md R21). -/
structure PortsIn where
  /-- `rst`: synchronous reset, active high (70_reset_and_hazards.md R100). -/
  rst : Bool
  /-- `req_valid`: a request is presented. -/
  reqValid : Bool
  /-- `req_cmd`: the command word; ignored when `reqValid` is false. -/
  reqCmd : CmdWord
  /-- `req_a`: the operand; ignored when `reqValid` is false. -/
  reqA : Value256
  deriving DecidableEq, Repr

/-- The machine between two clock edges. The shifter itself keeps nothing but its pipeline (10_state.md R10, R19). -/
structure State where
  /-- The input ports in this cycle (20_memory.md R21). -/
  ports : PortsIn
  /-- What the host drives in the coming cycles, next first (70_reset_and_hazards.md R107). -/
  inputs : List PortsIn
  /-- The pipeline registers, newest first; their number is `LAT` (10_state.md R19, 70_reset_and_hazards.md R106; log 1). -/
  pipe : List (Option Response)
  /-- The responses delivered since reset, oldest first (10_state.md R10, 20_memory.md R25). -/
  delivered : List Response
  /-- The MODEL's own counter: it picks a fresh free value in every cycle (log 7). -/
  draw : Nat
  deriving DecidableEq, Repr

/-- Input ports with nothing on them (log 6: the values of `reqCmd` and `reqA` are the model's). -/
def PortsIn.idle : PortsIn := { rst := false, reqValid := false, reqCmd := 0, reqA := 0 }

/-- An instance with `LAT = lat` right after reset: nothing in flight, nothing delivered
(70_reset_and_hazards.md R100, R101). -/
def State.resetWith (lat : Nat) : State :=
  { ports := .idle, inputs := [], pipe := List.replicate lat none, delivered := [], draw := 0 }

/-- The machine right after reset, with `LAT` at its default (70_reset_and_hazards.md R102, R106). -/
def State.reset : State := State.resetWith Config.defaultLat

end Sys2Proof.Machine
end

