-- ==== Sys2Proof/Machine/Operands.lean ====
section
/-! DEFINITION. The operand forms: the numbers an element count stands for, and the byte, lane and element views of a value. -/

namespace Sys2Proof

/-- `elem_n = 2^lgn` (30_encoding.md R32). -/
def ElemCount.elemN (n : ElemCount) : Nat := 2 ^ n.lgn.toNat

/-- `size = 32 / elem_n`, bytes per element (30_encoding.md R32). -/
def ElemCount.size (n : ElemCount) : Nat := Config.regBytes / n.elemN

/-- `half = elem_n / 2`, floor division (30_encoding.md R32, 41_dispatch.md R55). -/
def ElemCount.half (n : ElemCount) : Nat := n.elemN / 2

/-- `ebits = 8 * size`, bits per element (10_state.md R14). -/
def ElemCount.ebits (n : ElemCount) : Nat := 8 * n.size

namespace Machine

/-- `BYTE(a, j) = a[8*j+7 : 8*j]`, `j` in 0..31 (10_state.md R12). -/
def byteOf (a : Value256) (j : Nat) : Byte := a.extractLsb' (8 * j) 8

/-- The byte view of a lane, `j` in 0..15 (40_lane_primitives.md R40). -/
def laneByteOf (x : Lane) (j : Nat) : Byte := x.extractLsb' (8 * j) 8

/-- `ELEM(a, i, n)`, `i` in 0..n-1 (10_state.md R14). -/
def elemOf (a : Value256) (i : Nat) (n : ElemCount) : BitVec n.ebits :=
  a.extractLsb' (n.ebits * i) n.ebits

end Machine
end Sys2Proof
end

