-- ==== Sys2Proof/Machine/Ops.lean ====
section
/-! DEFINITION. The operations on the state: the clock edge, ending a transaction with a response, raising the fault, reset, and what the ports present. There is no memory and no register to operate on (20_memory.md R20, 10_state.md R16). -/

namespace Sys2Proof.Machine

/-- `LAT`: cycles from a request to its response, the number of pipeline registers (70_reset_and_hazards.md R106). -/
def State.lat (s : State) : Nat := s.pipe.length

/-- Reset is asserted and means something: with `LAT = 0` it has no effect (70_reset_and_hazards.md R100). -/
def State.inReset (s : State) : Bool := s.ports.rst && decide (0 < s.lat)

/-- The command word of the request that this cycle accepts; during reset `req_valid` is ignored
(20_memory.md R21, 70_reset_and_hazards.md R100). -/
def State.accepted? (s : State) : Option CmdWord :=
  if s.ports.reqValid && !s.inReset then some s.ports.reqCmd else none

/-- The ports of the next cycle: the host's next values, or nothing presented when it has no more (log 5). -/
def State.nextPorts (s : State) : PortsIn :=
  match s.inputs with
  | [] => { s.ports with rst := false, reqValid := false }
  | p :: _ => p

/-- What leaves a pipeline when `entering` enters it: its oldest register, or `entering` itself when it has no
register (70_reset_and_hazards.md R106, `LAT = 0` is combinational). -/
def leaving (entering : Option Response) (pipe : List (Option Response)) : Option Response :=
  pipe.getLastD entering

/-- The pipeline registers after the edge: every transaction one register on. -/
def staying (entering : Option Response) (pipe : List (Option Response)) : List (Option Response) :=
  (entering :: pipe).dropLast

/-- One clock edge outside reset: `entering` enters, the oldest transaction leaves and its response is delivered. -/
def State.clockEdge (s : State) (entering : Option Response) : State :=
  { ports := s.nextPorts
    inputs := s.inputs.tail
    pipe := staying entering s.pipe
    delivered := s.delivered ++ (leaving entering s.pipe).toList
    draw := s.draw + 1 }

/-- The accepted request's transaction ends with this response (00_scope.md R8). -/
def State.respond (s : State) (r : Response) : State := s.clockEdge (some r)

/-- Taking the exception: the response of the request, and nothing more; no state is saved and control goes nowhere
(60_exceptions.md R92, R95). There is no return operation (R96). -/
def State.raise (s : State) (f : Fault) : State := s.respond (.fault f)

/-- A clock edge in reset: everything in flight is dropped, the request is ignored, numbering restarts
(70_reset_and_hazards.md R100). -/
def State.resetEdge (s : State) : State :=
  { ports := s.nextPorts
    inputs := s.inputs.tail
    pipe := List.replicate s.lat none
    delivered := []
    draw := s.draw + 1 }

/-- One clock cycle around the running of a command word: in reset the edge drops everything in flight (R100); an accepted
request's word is run (20_memory.md R21); otherwise the pipeline only moves on. -/
def State.cycle (s : State) (runCmd : CmdWord → Host.Outcome State Fault Refusal) : Host.Outcome State Fault Refusal :=
  if s.inReset then .next s.resetEdge
  else
    match s.accepted? with
    | some cmd => runCmd cmd
    | none => .next (s.clockEdge none)

/-- The host presents this command word in this cycle, outside reset; the operand stays as it is. -/
def State.present (s : State) (cmd : CmdWord) : State :=
  { s with ports := { s.ports with rst := false, reqValid := true, reqCmd := cmd } }

/-- The host presents the command word that a number of at most `nbits` bits writes (log 9). -/
def State.presentBits (s : State) (nbits w : Nat) : State := s.present (BitVec.ofNat 10 (w % 2 ^ nbits))

end Sys2Proof.Machine
end

