-- ==== Sys2Proof/Machine/Illegal.lean ====
section
/-! DEFINITION. ILLEGAL, the reserved command words (60_exceptions.md R91, R92). -/

namespace Sys2Proof.Machine

/-- ILLEGAL: raise `IllegalCommand`. Neither the operand nor the word's `dir` and `offs` matter, and nothing of the
word is recorded (R91). -/
def execIllegal (_cmd : CmdWord) (s : State) : Host.Outcome State Fault Refusal :=
  .next (s.raise .illegalCommand)

end Sys2Proof.Machine
end

