-- ==== Sys2Proof/Machine/Lanes.lean ====
section
/-! DEFINITION. The Lane Model and the primitive lane operations (40_lane_primitives.md R40 to R46). -/

namespace Sys2Proof.Machine

/-- The two lane indexes; there is no other (40_lane_primitives.md R40). -/
inductive LaneIx where
  | lane0 | lane1
  deriving DecidableEq, Repr

/-- `LANE(a, i)` (R40). -/
def laneOf (a : Value256) : LaneIx → Lane
  | .lane0 => a.extractLsb' 0 128
  | .lane1 => a.extractLsb' 128 128

/-- `JOIN(hi, lo)`: `lo` is lane 0, `hi` lane 1 (R41). -/
def join (hi lo : Lane) : Value256 := hi ++ lo

/-- `BSL(x, k)`: intra-lane byte shift left (R43). -/
def bsl (x : Lane) (k : Nat) : Lane := if k < 16 then x <<< (8 * k) else zero128

/-- `BSR(x, k)`: intra-lane byte shift right, logical (R44). -/
def bsr (x : Lane) (k : Nat) : Lane := if k < 16 then x >>> (8 * k) else zero128

/-- `WIN(hi, lo, k)`: the 16-byte window at byte `k` of the concatenation `{hi, lo}` (R45). -/
def win (hi lo : Lane) (k : Nat) : Lane :=
  if k < 32 then (join hi lo >>> (8 * k)).extractLsb' 0 128 else zero128

/-- The selectors of the lane permute: a lane, or zero (R46). -/
inductive LaneSel where
  | l0 | l1 | z
  deriving DecidableEq, Repr

/-- What a selector picks (R46). -/
def pickLane (a : Value256) : LaneSel → Lane
  | .l0 => laneOf a .lane0
  | .l1 => laneOf a .lane1
  | .z => zero128

/-- `LANESEL(a, s1, s0)`: `s1` chooses result lane 1, `s0` result lane 0 (R46). -/
def laneSel (a : Value256) (s1 s0 : LaneSel) : Value256 := join (pickLane a s1) (pickLane a s0)

end Sys2Proof.Machine
end

