-- ==== Sys2Proof/Machine/ShiftCase.lean ====
section
/-! DEFINITION. The Shift Dispatcher and the result multiplexer, shared by both directions (41_dispatch.md R50 to R54). -/

namespace Sys2Proof.Machine

/-- The five cases, with the byte amounts that only SUB and SUPER have (41_dispatch.md R50, R53). -/
inductive ShiftCase where
  | zero
  | half
  | full
  | sub (k w : Nat)
  | super (k : Nat)
  deriving DecidableEq, Repr

/-- Case selection in the spec's priority order, with the byte amounts formed inside their cases
(41_dispatch.md R51, R53, R55). It reads the element count and the amount only (R50, R56). -/
def shiftDispatch (n : ElemCount) (offs : Amount) : ShiftCase :=
  let o := offs.toNat
  if o = 0 then .zero
  else if o = n.half then .half
  else if n.elemN ≤ o then .full
  else if 0 < o ∧ o < n.half then .sub (o * n.size) ((n.half - o) * n.size)
  else .super ((o - n.half) * n.size)

/-- The sources a result lane can be taken from (41_dispatch.md R54). -/
inductive LaneSource where
  /-- A lane of the source. -/
  | lane (i : LaneIx)
  /-- The zero lane. -/
  | zero
  /-- `BSL` of a lane. -/
  | byteLeft (i : LaneIx) (k : Nat)
  /-- `BSR` of a lane. -/
  | byteRight (i : LaneIx) (k : Nat)
  /-- `WIN(a1, a0, k)`. -/
  | window (k : Nat)
  deriving DecidableEq, Repr

/-- The lane a source stands for (41_dispatch.md R54). -/
def LaneSource.value (a : Value256) : LaneSource → Lane
  | .lane i => laneOf a i
  | .zero => zero128
  | .byteLeft i k => bsl (laneOf a i) k
  | .byteRight i k => bsr (laneOf a i) k
  | .window k => win (laneOf a .lane1) (laneOf a .lane0) k

/-- The two lane sources of a result, as the rows of the table give them (41_dispatch.md R54). -/
structure MuxRow where
  /-- The source of the new low lane. -/
  r0 : LaneSource
  /-- The source of the new high lane. -/
  r1 : LaneSource
  deriving DecidableEq, Repr

/-- The result multiplexer's table (41_dispatch.md R54). -/
def muxRow : Dir → ShiftCase → MuxRow
  | .left, .zero => ⟨.lane .lane0, .lane .lane1⟩
  | .left, .half => ⟨.zero, .lane .lane0⟩
  | .left, .full => ⟨.zero, .zero⟩
  | .left, .sub k w => ⟨.byteLeft .lane0 k, .window w⟩
  | .left, .super k => ⟨.zero, .byteLeft .lane0 k⟩
  | .right, .zero => ⟨.lane .lane0, .lane .lane1⟩
  | .right, .half => ⟨.lane .lane1, .zero⟩
  | .right, .full => ⟨.zero, .zero⟩
  | .right, .sub k _ => ⟨.window k, .byteRight .lane1 k⟩
  | .right, .super k => ⟨.byteRight .lane1 k, .zero⟩

/-- The result the multiplexer assembles: `r = JOIN(r1, r0)` (41_dispatch.md R54). -/
def muxResult (d : Dir) (c : ShiftCase) (a : Value256) : Value256 :=
  join ((muxRow d c).r1.value a) ((muxRow d c).r0.value a)

end Sys2Proof.Machine
end

