-- ==== Sys2Proof/Machine/ShiftLeft.lean ====
section
/-! DEFINITION. VSHL and its five case handlers (42_shift_left.md R60 to R65). -/

namespace Sys2Proof.Machine

/-- Case 1, zero shift (R61). -/
def shlZero (a : Value256) : Value256 := a

/-- Case 2, half-width shift: the high lane is the source's low lane, the low lane zero (R62). -/
def shlHalf (a : Value256) : Value256 := join (laneOf a .lane0) zero128

/-- Case 3, full or over-width shift (R63). -/
def shlFull (_a : Value256) : Value256 := zero256

/-- Case 4, sub-half shift (R64). -/
def shlSub (k w : Nat) (a : Value256) : Value256 :=
  join (win (laneOf a .lane1) (laneOf a .lane0) w) (bsl (laneOf a .lane0) k)

/-- Case 5, super-half shift (R65). -/
def shlSuper (k : Nat) (a : Value256) : Value256 := join (bsl (laneOf a .lane0) k) zero128

/-- The result of VSHL: the handler of the dispatched case (R60). -/
def shiftLeft (n : ElemCount) (offs : Amount) (a : Value256) : Value256 :=
  match shiftDispatch n offs with
  | .zero => shlZero a
  | .half => shlHalf a
  | .full => shlFull a
  | .sub k w => shlSub k w a
  | .super k => shlSuper k a

/-- VSHL: respond with the shifted operand of the request (R60). -/
def execVshl (n : ElemCount) (offs : Amount) (s : State) : Host.Outcome State Fault Refusal :=
  .next (s.respond (.result (shiftLeft n offs s.ports.reqA)))

end Sys2Proof.Machine
end

