-- ==== Sys2Proof/Machine/ShiftRight.lean ====
section
/-! DEFINITION. VSHR and its five case handlers (43_shift_right.md R70 to R75). -/

namespace Sys2Proof.Machine

/-- Case 1, zero shift (R71). -/
def shrZero (a : Value256) : Value256 := a

/-- Case 2, half-width shift: the low lane is the source's high lane, the high lane zero (R72). -/
def shrHalf (a : Value256) : Value256 := join zero128 (laneOf a .lane1)

/-- Case 3, full or over-width shift (R73). -/
def shrFull (_a : Value256) : Value256 := zero256

/-- Case 4, sub-half shift; `k` is both the window offset and the byte amount (R74). -/
def shrSub (k : Nat) (a : Value256) : Value256 :=
  join (bsr (laneOf a .lane1) k) (win (laneOf a .lane1) (laneOf a .lane0) k)

/-- Case 5, super-half shift (R75). -/
def shrSuper (k : Nat) (a : Value256) : Value256 := join zero128 (bsr (laneOf a .lane1) k)

/-- The result of VSHR: the handler of the dispatched case (R70). -/
def shiftRight (n : ElemCount) (offs : Amount) (a : Value256) : Value256 :=
  match shiftDispatch n offs with
  | .zero => shrZero a
  | .half => shrHalf a
  | .full => shrFull a
  | .sub k _ => shrSub k a
  | .super k => shrSuper k a

/-- VSHR: respond with the shifted operand of the request (R70). -/
def execVshr (n : ElemCount) (offs : Amount) (s : State) : Host.Outcome State Fault Refusal :=
  .next (s.respond (.result (shiftRight n offs s.ports.reqA)))

end Sys2Proof.Machine
end

