-- ==== Sys2Proof/Machine/Dispatch.lean ====
section
/-! DEFINITION. One arm per instruction: its meaning. -/

namespace Sys2Proof.Machine

def exec (i : Instr) (s : State) : Host.Outcome State Fault Refusal :=
  match i with
  | .vshl n offs => Sys2Proof.Machine.execVshl n offs s
  | .vshr n offs => Sys2Proof.Machine.execVshr n offs s
  | .illegal cmd => Sys2Proof.Machine.execIllegal cmd s

end Sys2Proof.Machine
end

