-- ==== Sys2Proof/Machine/Flags.lean ====
section
/-! DEFINITION. The shifter has no flags (10_state.md R16). Its status is the response on the output ports: `rsp_valid`, `rsp_ill` and `rsp_r` as functions of the state (20_memory.md R21). -/

namespace Sys2Proof.Machine

/-- The response an instruction gives to an operand. -/
def responseOf (i : Instr) (a : Value256) : Response :=
  match i with
  | .vshl n offs => .result (shiftLeft n offs a)
  | .vshr n offs => .result (shiftRight n offs a)
  | .illegal _ => .fault .illegalCommand

/-- A transaction as a pure function of its request, the spec's `exec(cmd, a)` (00_scope.md R9, 60_exceptions.md R91). -/
def transact (cmd : CmdWord) (a : Value256) : Response := responseOf (decode cmd) a

/-- The cause code of a response: 0 for none, 1 for `IllegalCommand` (60_exceptions.md R91). -/
def Response.causeCode : Response → BitVec 1
  | .result _ => 0
  | .fault .illegalCommand => 1

/-- The bit `ill` of a response is its cause code (60_exceptions.md R91, R92). -/
def Response.ill (r : Response) : Bool := r.causeCode == 1

/-- The response of the request that this cycle accepts, if it accepts one. -/
def State.entering (s : State) : Option Response :=
  s.accepted?.map (transact · s.ports.reqA)

/-- The response on the response channel in this cycle, before its clock edge (20_memory.md R21, 70_reset_and_hazards.md R106). -/
def State.response? (s : State) : Option Response := leaving s.entering s.pipe

/-- The wire `rsp_valid` (20_memory.md R21). -/
def State.rspValid (s : State) : Bool := s.response?.isSome

/-- The wire `rsp_ill`: the response's bit, and a free value while `rsp_valid = 0` (70_reset_and_hazards.md R101; log 7). -/
def State.rspIll (s : State) : Bool :=
  match s.response? with
  | some r => r.ill
  | none => Config.openRspIll s.draw

/-- The wire `rsp_r`: the result, and a free value for a faulted response or none at all
(60_exceptions.md R92, 70_reset_and_hazards.md R101; log 7). -/
def State.rspR (s : State) : Value256 :=
  match s.response? with
  | some (.result r) => r
  | some (.fault _) => Config.openRspR s.draw
  | none => Config.openRspR s.draw

end Sys2Proof.Machine
end

