-- ==== Sys2Proof/Machine/Step.lean ====
section
/-! DEFINITION. One step: one clock cycle, which ends one transaction's computation at most (00_scope.md R9, 70_reset_and_hazards.md R107). -/

namespace Sys2Proof.Machine

/-- One cycle, in which an accepted command word is decoded and run on its operand (60_exceptions.md R91). -/
def step (s : State) : Host.Outcome State Fault Refusal := s.cycle fun cmd => exec (decode cmd) s

/-- The command word `w` on the request channel, where the next step takes its command from (20_memory.md R27; log 9). -/
def State.withFetchWord (s : State) (nbits w : Nat) : State := s.presentBits nbits w

end Sys2Proof.Machine
end

