-- ==== Sys2Proof/Machine/Assembler.lean ====
section
/-! DEFINITION. The assembler of 30_encoding.md R38 and R39: statements, amount folding, pseudo-instructions, and the one-line text syntax. -/

namespace Sys2Proof.Machine

/-- Why the assembler rejects a line: the spec's "misuse caught before execution" (30_encoding.md R38). -/
inductive AsmError where
  /-- The element count is none of 1, 2, 4, 8, 16, 32. -/
  | badElemCount
  /-- The amount is negative. -/
  | negativeAmount
  /-- The line has none of the forms of R38 and R39. -/
  | badSyntax
  deriving DecidableEq, Repr

/-- What a line asks for. The spellings `VSHL.n<e> <o>` and `shift_left(a, o, e)` are one statement (R39). -/
inductive AsmStmt where
  /-- A shift by a written element count and amount, both still unchecked. -/
  | shift (d : Dir) (elemN : Nat) (offs : Int)
  /-- `VMOV` (R39). -/
  | vmov
  /-- `VZERO` (R39). -/
  | vzero
  deriving DecidableEq, Repr

/-- What the assembler answers. -/
inductive AsmResult where
  /-- The command word. -/
  | word (cmd : CmdWord)
  /-- The line is rejected. -/
  | rejected (e : AsmError)
  /-- The line holds no statement: it is blank or a comment (log 12). -/
  | nothing
  deriving DecidableEq, Repr

/-- The element count written in decimal (R38). -/
def elemCountOfNumber? : Nat → Option ElemCount
  | 1 => some .n1
  | 2 => some .n2
  | 4 => some .n4
  | 8 => some .n8
  | 16 => some .n16
  | 32 => some .n32
  | _ => none

/-- Amount folding: `min(offs, 63)` (R38, R39). -/
def foldAmount (offs : Nat) : Amount := BitVec.ofNat 6 (min offs Config.maxAmount)

/-- The command word of a statement, or why it is rejected (R38, R39).
DESIGN CHOICE (log 12): where both are wrong, the element count is reported, not the negative amount. -/
def assemble : AsmStmt → AsmResult
  | .shift d e o =>
    match elemCountOfNumber? e, o with
    | none, _ => .rejected .badElemCount
    | some _, .negSucc _ => .rejected .negativeAmount
    | some n, .ofNat o => .word (encode (.shift d n (foldAmount o)))
  | .vmov => .word (encode (.vshl .n1 0))
  | .vzero => .word (encode (.vshl .n1 1))

/-- A token of a line: a word of letters, digits and other signs, or a punctuation mark. -/
inductive AsmToken where
  | word (cs : List Char)
  | mark (c : Char)
  deriving DecidableEq, Repr

/-- The word read so far, if any, in front of the tokens that follow; its letters were collected last first. -/
def flushWord (acc : List Char) (rest : List AsmToken) : List AsmToken :=
  match acc with
  | [] => rest
  | _ => .word acc.reverse :: rest

/-- The tokens of a line. A `;` starts a comment, and mnemonics are read without their case (R38).
DESIGN CHOICE (log 12): which characters separate words, and that the call spelling is read without its case too: R38 says so
of mnemonics only. -/
def asmTokens : List Char → List Char → List AsmToken
  | [], acc => flushWord acc []
  | c :: cs, acc =>
    if c = ';' then flushWord acc []
    else if c = ' ' ∨ c = '\t' ∨ c = '\n' ∨ c = '\r' then flushWord acc (asmTokens cs [])
    else if c = '(' ∨ c = ')' ∨ c = ',' ∨ c = '-' ∨ c = '>' then flushWord acc (.mark c :: asmTokens cs [])
    else asmTokens cs (c.toLower :: acc)

/-- The number a run of decimal digits writes, on top of what stands to its left. -/
def decimalFrom : Nat → List Char → Option Nat
  | n, [] => some n
  | n, c :: cs => if c.isDigit then decimalFrom (10 * n + (c.toNat - '0'.toNat)) cs else none

/-- A non-empty decimal number. DESIGN CHOICE (log 12): leading zeros are allowed, on which R38 is silent. -/
def decimal? : List Char → Option Nat
  | [] => none
  | c :: cs => decimalFrom 0 (c :: cs)

/-- A signed amount: a number, perhaps behind a minus sign (R38).
DESIGN CHOICE (log 12): `-0` is the amount 0, on which R38 is silent, and blanks may follow the minus sign. -/
def amount? : List AsmToken → Option Int
  | [.word d] => (decimal? d).map Int.ofNat
  | [.mark '-', .word d] => (decimal? d).map fun n => - Int.ofNat n
  | _ => none

/-- The direction and element count of `vshl.n<e>` or `vshr.n<e>` (R38). The suffix is read with the mnemonic (log 12). -/
def mnemonic? : List Char → Option (Dir × Nat)
  | 'v' :: 's' :: 'h' :: 'l' :: '.' :: 'n' :: d => (decimal? d).map (Dir.left, ·)
  | 'v' :: 's' :: 'h' :: 'r' :: '.' :: 'n' :: d => (decimal? d).map (Dir.right, ·)
  | _ => none

/-- The direction of the document's own spelling of an operation (R38, R39). -/
def callName? (w : List Char) : Option Dir :=
  if w = ['s', 'h', 'i', 'f', 't', '_', 'l', 'e', 'f', 't'] then some .left
  else if w = ['s', 'h', 'i', 'f', 't', '_', 'r', 'i', 'g', 'h', 't'] then some .right
  else none

/-- The statement of a direction, an amount and an element count, where all three were read. -/
def shiftStmt? (d : Option Dir) (offs : Option Int) (e : Option Nat) : Option AsmStmt :=
  d.bind fun d => offs.bind fun o => e.map fun e => .shift d e o

/-- The statement of a line's tokens (R38, R39). A call names its operand and, after `->`, its result;
neither is encoded. DESIGN CHOICE (log 12): any word may name them. -/
def parseStmt? : List AsmToken → Option AsmStmt
  | [.word ['v', 'm', 'o', 'v']] => some .vmov
  | [.word ['v', 'z', 'e', 'r', 'o']] => some .vzero
  | [.word f, .mark '(', .word _, .mark ',', .word o, .mark ',', .word e, .mark ')'] =>
    shiftStmt? (callName? f) (amount? [.word o]) (decimal? e)
  | [.word f, .mark '(', .word _, .mark ',', .mark '-', .word o, .mark ',', .word e, .mark ')'] =>
    shiftStmt? (callName? f) (amount? [.mark '-', .word o]) (decimal? e)
  | [.word f, .mark '(', .word _, .mark ',', .word o, .mark ',', .word e, .mark ')', .mark '-', .mark '>', .word _] =>
    shiftStmt? (callName? f) (amount? [.word o]) (decimal? e)
  | [.word f, .mark '(', .word _, .mark ',', .mark '-', .word o, .mark ',', .word e, .mark ')', .mark '-', .mark '>',
      .word _] =>
    shiftStmt? (callName? f) (amount? [.mark '-', .word o]) (decimal? e)
  | .word m :: rest => (mnemonic? m).bind fun de => shiftStmt? (some de.1) (amount? rest) (some de.2)
  | _ => none

/-- The assembler on one line of text (R38, R39). -/
def assembleLine (line : List Char) : AsmResult :=
  match asmTokens line [] with
  | [] => .nothing
  | ts =>
    match parseStmt? ts with
    | some st => assemble st
    | none => .rejected .badSyntax

end Sys2Proof.Machine
end

