-- ==== Sys2Proof/Safety.lean ====
section
/-! DEFINITION. The terms claims are stated in: what is owed and promised, when a run is over or has faulted, the chaining host, and data-erased states. -/

namespace Sys2Proof.Machine

/-- `k` steps of this machine: the host's `Core.run` of `Sys2Proof.core`, with its types written out. -/
def run (k : Nat) (s : State) : Host.Outcome State Fault Refusal := Host.Core.run Sys2Proof.core k s

/-- Is this response a fault? (60_exceptions.md R92) -/
def Response.isFault : Response → Bool
  | .result _ => false
  | .fault _ => true

/-- The responses in flight, oldest first (70_reset_and_hazards.md R100). -/
def State.inFlight (s : State) : List Response := s.pipe.reverse.filterMap id

/-- The response these port values ask for, if they present a request. -/
def PortsIn.response? (p : PortsIn) : Option Response :=
  if p.reqValid then some (transact p.reqCmd p.reqA) else none

/-- The responses of the requests still to be presented, in order; `rst` is not looked at (log 17). -/
def State.toCome (s : State) : List Response := (s.ports :: s.inputs).filterMap PortsIn.response?

/-- Everything delivered, in flight and still to come, in order: what the host will have been given since reset
if it asserts no reset (20_memory.md R25). -/
def State.promised (s : State) : List Response := s.delivered ++ s.inFlight ++ s.toCome

/-- No reset is asserted in this cycle or in any cycle the host has planned. -/
def State.noReset (s : State) : Bool := (s.ports :: s.inputs).all fun p => !p.rst

/-- The host will present these port values, this cycle's first. -/
def State.hostPlans (s : State) (p : PortsIn) (ps : List PortsIn) : State := { s with ports := p, inputs := ps }

/-- No response is owed and no request is left to present: the run is over (70_reset_and_hazards.md R108).
DESIGN CHOICE (log 17): R108 is silent on reset, and this does not look at `rst`: the ignored request of a reset cycle, a request
planned behind a coming reset edge, and a response that such an edge will drop all keep the run not over. -/
def State.runOver (s : State) : Bool :=
  s.pipe.all Option.isNone && (s.ports :: s.inputs).all fun p => !p.reqValid

/-- Some response of the run had `ill = 1` (70_reset_and_hazards.md R108). -/
def State.faulted (s : State) : Bool := s.delivered.any Response.isFault

/-- The run is over and has not faulted (70_reset_and_hazards.md R108). -/
def State.goodEnd (s : State) : Bool := s.runOver && !s.faulted

/-- Is this an instruction of a legal command word? (30_encoding.md R35) -/
def legalInstr : Instr → Bool
  | .vshl _ _ => true
  | .vshr _ _ => true
  | .illegal _ => false

/-- Do these port values present no reserved command word? (30_encoding.md R36) -/
def PortsIn.legal (p : PortsIn) : Bool := !p.reqValid || legalInstr (decode p.reqCmd)

/-- No fault delivered, none in flight, and no reserved word presented or planned (60_exceptions.md R91); `rst` is not looked
at (log 17). -/
def State.clean (s : State) : Bool :=
  !s.faulted && s.inFlight.all (fun r => !r.isFault) && (s.ports :: s.inputs).all PortsIn.legal

/-- How a program of the chaining host ends (92_eei_decisions.md D16). -/
inductive ChainEnd where
  /-- Every word was run; the host holds this value. -/
  | value (v : Value256)
  /-- The word at this place, counted from 1, raised `IllegalCommand`; no later word is presented. -/
  | faultedAt (step : Nat)
  deriving DecidableEq, Repr

/-- The chaining host from its `i`-th word on: it presents each word with the value it holds and keeps the result
(92_eei_decisions.md D16, 60_exceptions.md R96). -/
def chainFrom (i : Nat) : List CmdWord → Value256 → ChainEnd
  | [], v => .value v
  | cmd :: rest, v =>
    match transact cmd v with
    | .result r => chainFrom (i + 1) rest r
    | .fault _ => .faultedAt i

/-- A program of the chaining host. -/
def chain (program : List CmdWord) (v : Value256) : ChainEnd := chainFrom 1 program v

/-- Port values that present a request (20_memory.md R21). -/
def PortsIn.request (cmd : CmdWord) (a : Value256) : PortsIn :=
  { rst := false, reqValid := true, reqCmd := cmd, reqA := a }

/-- What the chaining host drives: each word with the value it then holds, and `lat` empty cycles in which it waits for the
response (92_eei_decisions.md D16, 20_memory.md R26). -/
def chainPlan (lat : Nat) : List CmdWord → Value256 → List PortsIn
  | [], _ => []
  | cmd :: rest, v =>
    .request cmd v :: (List.replicate lat .idle ++
      match transact cmd v with
      | .result r => chainPlan lat rest r
      | .fault _ => [])

/-- `b` is `REVE_n(a)`: the `n` elements of `a` in reverse order (44_laws.md R87). -/
def IsReverse (n : ElemCount) (a b : Value256) : Prop :=
  ∀ i < n.elemN, elemOf b i n = elemOf a (n.elemN - 1 - i) n

/-- A response without its data: every result becomes zero. -/
def Response.eraseData : Response → Response
  | .result _ => .result zero256
  | .fault f => .fault f

/-- Port values without their operand. -/
def PortsIn.eraseData (p : PortsIn) : PortsIn := { p with reqA := zero256 }

/-- The state with every operand and every result set to zero: what is left does not depend on data
(41_dispatch.md R56, 70_reset_and_hazards.md R105). -/
def State.eraseData (s : State) : State :=
  { ports := s.ports.eraseData
    inputs := s.inputs.map PortsIn.eraseData
    pipe := s.pipe.map (Option.map Response.eraseData)
    delivered := s.delivered.map Response.eraseData
    draw := s.draw }

end Sys2Proof.Machine
end

