-- ==== Sys2Proof/Certificates/Slice0/Obligations.lean ====
section
/-! DEFINITION. The statements for the provers. -/

open Sys2Proof Sys2Proof.Machine

/-! ### Encoding -/

/-- Decoding undoes encoding, for every well-formed instruction with every operand (30_encoding.md sections 1 to 4). -/
def Obligations.DecodeOfEncodeIsTheInstruction : Prop :=
  ∀ i : Instr, i.wf = true → decode (encode i) = i

/-- Encoding undoes decoding, and every word decodes to a well-formed instruction: each of the 1024 words has one
meaning (30_encoding.md section 3). -/
def Obligations.EncodeOfDecodeIsTheWord : Prop :=
  ∀ cmd : CmdWord, (decode cmd).wf = true ∧ encode (decode cmd) = cmd

/-- The opcode map: the reserved pattern first, then bit 9; 768 legal and 256 reserved words (30_encoding.md R35). -/
def Obligations.DecoderFollowsOpcodeMap : Prop :=
  (∀ cmd : CmdWord,
    (cmd &&& 0x180#10 = 0x180#10 → decode cmd = .illegal cmd) ∧
    (cmd &&& 0x180#10 ≠ 0x180#10 →
      ∃ n : ElemCount, n.elemN = 2 ^ (cmd.extractLsb' 6 3).toNat ∧
        (cmd &&& 0x200#10 = 0x000#10 → decode cmd = .vshl n (cmd.extractLsb' 0 6)) ∧
        (cmd &&& 0x200#10 = 0x200#10 → decode cmd = .vshr n (cmd.extractLsb' 0 6)))) ∧
  (List.range 1024).countP (fun k => legalInstr (decode (BitVec.ofNat 10 k))) = 768 ∧
  (List.range 1024).countP (fun k => !legalInstr (decode (BitVec.ofNat 10 k))) = 256

/-- A command word as a number: `cmd = dir * 512 + lgn * 64 + offs` (30_encoding.md R30). -/
def Obligations.CommandWordIsItsThreeFields : Prop :=
  (∀ cmd : CmdWord, cmd.toNat = (dirField cmd).toNat * 512 + (lgnField cmd).toNat * 64 + (offsField cmd).toNat) ∧
  (∀ (n : ElemCount) (offs : Amount),
    (encode (.vshl n offs)).toNat = 0 * 512 + n.lgn.toNat * 64 + offs.toNat ∧
    (encode (.vshr n offs)).toNat = 1 * 512 + n.lgn.toNat * 64 + offs.toNat)

/-- The table of element counts: `lgn`, `elem_n`, `size`, `half`, element width; 6 and 7 are reserved (30_encoding.md R32). -/
def Obligations.ElementCountTable : Prop :=
  [ElemCount.n1, .n2, .n4, .n8, .n16, .n32].map (fun n => (n.lgn.toNat, n.elemN, n.size, n.half, n.ebits)) =
    [(0, 1, 32, 0, 256), (1, 2, 16, 1, 128), (2, 4, 8, 2, 64), (3, 8, 4, 4, 32), (4, 16, 2, 8, 16),
      (5, 32, 1, 16, 8)] ∧
  (∀ n : ElemCount, n.elemN = 2 ^ n.lgn.toNat ∧ n.size = 32 / n.elemN ∧ n.half = n.elemN / 2 ∧
    ElemCount.ofLgn? n.lgn = some n) ∧
  ElemCount.ofLgn? 6 = none ∧ ElemCount.ofLgn? 7 = none

/-- A few words written out bit by bit decode to the instruction they stand for (30_encoding.md R30, R38;
95_test_vectors.md section 2.2). -/
def Obligations.SampleWordsDecode : Prop :=
  decode 0b0011000011#10 = .vshl .n8 3 ∧ decode 0b1011000011#10 = .vshr .n8 3 ∧
  decode 0b0000000001#10 = .vshl .n1 1 ∧ decode 0b1101111111#10 = .vshr .n32 63 ∧
  decode 0b0110000000#10 = .illegal 0b0110000000#10 ∧ decode 0b1111000101#10 = .illegal 0b1111000101#10

/-! ### The step, the clock edge and the frame -/

/-- A step runs the instruction that the presented command word decodes to (60_exceptions.md section 1, 20_memory.md section 2). -/
def Obligations.StepRunsTheDecodedInstruction : Prop :=
  ∀ s : State, s.inReset = false → s.ports.reqValid = true →
    step s = exec (decode s.ports.reqCmd) s ∧
    ∀ i : Instr, i.wf = true → s.ports.reqCmd = encode i → step s = exec i s

/-- `withFetchWord` puts a command word where the next step takes it from: the step runs exactly that word's instruction on
the operand that was on the ports (the model's own operation, log 9). -/
def Obligations.WithFetchWordRunsTheWord : Prop :=
  ∀ (s : State) (w : Nat), w < 1024 →
    decodeTableWord 16 w = some (decode (BitVec.ofNat 10 w)) ∧
    step (s.withFetchWord 16 w) = exec (decode (BitVec.ofNat 10 w)) (s.withFetchWord 16 w) ∧
    (s.withFetchWord 16 w).ports.reqA = s.ports.reqA ∧ (s.withFetchWord 16 w).pipe = s.pipe ∧
    (s.withFetchWord 16 w).delivered = s.delivered

/-- When no request is presented, whatever is on `req_cmd` and `req_a` gives no response: the step only moves the
pipeline on (20_memory.md section 2). -/
def Obligations.CycleWithoutRequestAddsNoResponse : Prop :=
  ∀ s : State, s.inReset = false → s.ports.reqValid = false →
    ∃ t : State, step s = .next t ∧ t.delivered ++ t.inFlight = s.delivered ++ s.inFlight ∧
      ∀ (cmd : CmdWord) (a : Value256),
        ∃ u : State, step { s with ports := { s.ports with reqCmd := cmd, reqA := a } } = .next u ∧
          u.delivered = t.delivered ∧ u.pipe = t.pipe

/-- The frame of VSHL, VSHR and ILLEGAL: the transaction's response is added behind everything delivered and in flight,
all of which stays as it was; the latency stays; the host's plan goes on by one cycle (10_state.md sections 1 and 2,
20_memory.md section 5, 70_reset_and_hazards.md section 4).
Two clauses are the model's own and follow from no rule of the spec: `t.ports = s.nextPorts`, where an exhausted plan presents
nothing (log 5, DESIGN CHOICE), and `t.draw = s.draw + 1`, the counter of the free values (log 7, DESIGN CHOICE). -/
def Obligations.FrameOfEveryInstruction : Prop :=
  ∀ (i : Instr) (s t : State), exec i s = .next t →
    t.delivered ++ t.inFlight = s.delivered ++ s.inFlight ++ [responseOf i s.ports.reqA] ∧
    s.delivered <+: t.delivered ∧ t.delivered.length ≤ s.delivered.length + 1 ∧
    t.lat = s.lat ∧ t.ports = s.nextPorts ∧ t.inputs = s.inputs.tail ∧ t.draw = s.draw + 1 ∧
    (s.lat = 0 → t.delivered = s.delivered ++ [responseOf i s.ports.reqA]) ∧
    (0 < s.lat → t.pipe = some (responseOf i s.ports.reqA) :: s.pipe.dropLast)

/-- `LAT` is fixed for an instance: no step changes the number of pipeline registers (70_reset_and_hazards.md section 4). -/
def Obligations.LatencyNeverChanges : Prop :=
  ∀ s t : State, step s = .next t → t.lat = s.lat

/-- Nothing the host does can make the shifter stuck: every step, and so every run, answers a next state
(93_implementation_defined.md section 1, 70_reset_and_hazards.md section 5). -/
def Obligations.NothingIsStuck : Prop :=
  (∀ s : State, ∃ t : State, step s = .next t) ∧
  (∀ (k : Nat) (s : State), ∃ t : State, run k s = .next t)

/-! ### Lanes, primitives, dispatcher, multiplexer -/

/-- Lane extraction and reassembly (40_lane_primitives.md R40, R41). -/
def Obligations.LanesAndJoin : Prop :=
  (∀ (a : Value256) (j : Nat), j < 16 →
    laneByteOf (laneOf a .lane0) j = byteOf a j ∧ laneByteOf (laneOf a .lane1) j = byteOf a (16 + j)) ∧
  (∀ hi lo : Lane, laneOf (join hi lo) .lane0 = lo ∧ laneOf (join hi lo) .lane1 = hi ∧
    (join hi lo).toNat = hi.toNat * 2 ^ 128 + lo.toNat) ∧
  (∀ a : Value256, join (laneOf a .lane1) (laneOf a .lane0) = a ∧
    (laneOf a .lane0).toNat = a.toNat % 2 ^ 128 ∧ (laneOf a .lane1).toNat = a.toNat / 2 ^ 128)

/-- The intra-lane byte shifts as numbers and byte by byte, for every amount (40_lane_primitives.md R43, R44). -/
def Obligations.ByteShiftsStayInTheirLane : Prop :=
  ∀ (x : Lane) (k : Nat),
    (k < 16 → (bsl x k).toNat = x.toNat * 2 ^ (8 * k) % 2 ^ 128 ∧ (bsr x k).toNat = x.toNat / 2 ^ (8 * k)) ∧
    (16 ≤ k → bsl x k = zero128 ∧ bsr x k = zero128) ∧
    ∀ j < 16,
      laneByteOf (bsl x k) j = (if k ≤ j then laneByteOf x (j - k) else 0) ∧
      laneByteOf (bsr x k) j = (if j + k ≤ 15 then laneByteOf x (j + k) else 0)

/-- The cross-lane window byte by byte, for every offset (40_lane_primitives.md R45). -/
def Obligations.WindowReadsTheConcatenation : Prop :=
  ∀ (hi lo : Lane) (k : Nat),
    (k < 32 → win hi lo k = (((hi ++ lo : BitVec (128 + 128)) >>> (8 * k)).extractLsb' 0 128 : BitVec 128)) ∧
    (32 ≤ k → win hi lo k = zero128) ∧
    (∀ j < 16, laneByteOf (win hi lo k) j = if j + k ≤ 31 then byteOf (join hi lo) (j + k) else 0) ∧
    win hi lo 0 = lo ∧ win hi lo 16 = hi

/-- The lane permute, and the two settings the half-width cases use (40_lane_primitives.md R46, 42_shift_left.md R62,
43_shift_right.md R72). -/
def Obligations.LanePermuteSettings : Prop :=
  ∀ (a : Value256),
    (∀ s1 s0 : LaneSel, laneSel a s1 s0 = join (pickLane a s1) (pickLane a s0)) ∧
    pickLane a .l0 = laneOf a .lane0 ∧ pickLane a .l1 = laneOf a .lane1 ∧ pickLane a .z = zero128 ∧
    laneSel a .l1 .l0 = a ∧ shlHalf a = laneSel a .l0 .z ∧ shrHalf a = laneSel a .z .l1

/-- Elements, bytes and lanes are views of the same bits: element `i` is bytes `size*i .. size*i+size-1`, the lower half
of the elements lies in lane 0 and the upper half in lane 1 (10_state.md R14). -/
def Obligations.ElementsAreWholeBytesOfOneLane : Prop :=
  ∀ (n : ElemCount) (a : Value256) (i : Nat), i < n.elemN →
    (∀ b < n.size, (elemOf a i n).extractLsb' (8 * b) 8 = byteOf a (n.size * i + b)) ∧
    (n ≠ .n1 → i < n.half → elemOf a i n = (laneOf a .lane0).extractLsb' (n.ebits * i) n.ebits) ∧
    (n ≠ .n1 → n.half ≤ i → elemOf a i n = (laneOf a .lane1).extractLsb' (n.ebits * (i - n.half)) n.ebits)

/-- Case selection: each amount reaches exactly the case of its range, for every element count (41_dispatch.md R51). -/
def Obligations.DispatcherSelectsItsCase : Prop :=
  ∀ (n : ElemCount) (offs : Amount),
    (shiftDispatch n offs = .zero ↔ offs.toNat = 0) ∧
    (shiftDispatch n offs = .half ↔ offs.toNat ≠ 0 ∧ offs.toNat = n.half) ∧
    (shiftDispatch n offs = .full ↔ n.elemN ≤ offs.toNat) ∧
    ((∃ k w, shiftDispatch n offs = .sub k w) ↔ 0 < offs.toNat ∧ offs.toNat < n.half) ∧
    ((∃ k, shiftDispatch n offs = .super k) ↔ n.half < offs.toNat ∧ offs.toNat < n.elemN)

/-- The byte amounts: their formulas, whole numbers of elements, and always 1 to 15 (41_dispatch.md, byte amounts). That they
occur for four elements or more only is the spec's inference (41_dispatch.md, table of the cases each command reaches;
40_lane_primitives.md, domain of the byte amounts). -/
def Obligations.ByteAmountsAreOneToFifteen : Prop :=
  ∀ (n : ElemCount) (offs : Amount),
    (∀ k w, shiftDispatch n offs = .sub k w →
      k = offs.toNat * n.size ∧ w = (n.half - offs.toNat) * n.size ∧ w = 16 - k ∧
      n.size ≤ k ∧ k ≤ 16 - n.size ∧ 1 ≤ k ∧ k ≤ 15 ∧
      n.size ≤ w ∧ w ≤ 16 - n.size ∧ 1 ≤ w ∧ w ≤ 15 ∧ n.size ∣ k ∧ n.size ∣ w ∧ 4 ≤ n.elemN) ∧
    (∀ k, shiftDispatch n offs = .super k →
      k = (offs.toNat - n.half) * n.size ∧ n.size ≤ k ∧ k ≤ 16 - n.size ∧ 1 ≤ k ∧ k ≤ 15 ∧ n.size ∣ k ∧
      4 ≤ n.elemN)

/-- The result multiplexer assembles what the case handlers give, in both directions: the spec's inference
"[derived: from the rules cited in the table]" (41_dispatch.md, result multiplexer). -/
def Obligations.MultiplexerAgreesWithHandlers : Prop :=
  ∀ (n : ElemCount) (offs : Amount) (a : Value256),
    muxResult .left (shiftDispatch n offs) a = shiftLeft n offs a ∧
    muxResult .right (shiftDispatch n offs) a = shiftRight n offs a

/-! ### VSHL and VSHR -/

/-- VSHL cases 1, 2 and 3: identity, half-width, full or over-width (42_shift_left.md R61, R62, R63). -/
def Obligations.VshlZeroHalfAndFullShift : Prop :=
  ∀ (n : ElemCount) (offs : Amount) (s : State),
    (offs.toNat = 0 → exec (.vshl n offs) s = .next (s.respond (.result s.ports.reqA))) ∧
    (offs.toNat ≠ 0 → offs.toNat = n.half →
      exec (.vshl n offs) s = .next (s.respond (.result (join (laneOf s.ports.reqA .lane0) zero128)))) ∧
    (n.elemN ≤ offs.toNat → exec (.vshl n offs) s = .next (s.respond (.result zero256)))

/-- VSHL case 4, sub-half, by the primitives and byte by byte (42_shift_left.md R64). -/
def Obligations.VshlSubHalfShift : Prop :=
  ∀ (n : ElemCount) (offs : Amount) (s : State), 0 < offs.toNat → offs.toNat < n.half →
    ∃ r, exec (.vshl n offs) s = .next (s.respond (.result r)) ∧
      r = join (win (laneOf s.ports.reqA .lane1) (laneOf s.ports.reqA .lane0) ((n.half - offs.toNat) * n.size))
        (bsl (laneOf s.ports.reqA .lane0) (offs.toNat * n.size)) ∧
      ∀ j < 16,
        byteOf r j = (if offs.toNat * n.size ≤ j then byteOf s.ports.reqA (j - offs.toNat * n.size) else 0) ∧
        byteOf r (16 + j) = byteOf s.ports.reqA (16 + j - offs.toNat * n.size)

/-- VSHL case 5, super-half, by the primitives and byte by byte (42_shift_left.md R65). -/
def Obligations.VshlSuperHalfShift : Prop :=
  ∀ (n : ElemCount) (offs : Amount) (s : State), n.half < offs.toNat → offs.toNat < n.elemN →
    ∃ r, exec (.vshl n offs) s = .next (s.respond (.result r)) ∧
      r = join (bsl (laneOf s.ports.reqA .lane0) ((offs.toNat - n.half) * n.size)) zero128 ∧
      ∀ j < 16,
        byteOf r j = 0 ∧
        byteOf r (16 + j) = (if (offs.toNat - n.half) * n.size ≤ j then
          byteOf s.ports.reqA (j - (offs.toNat - n.half) * n.size) else 0)

/-- VSHR cases 1, 2 and 3 (43_shift_right.md R71, R72, R73). -/
def Obligations.VshrZeroHalfAndFullShift : Prop :=
  ∀ (n : ElemCount) (offs : Amount) (s : State),
    (offs.toNat = 0 → exec (.vshr n offs) s = .next (s.respond (.result s.ports.reqA))) ∧
    (offs.toNat ≠ 0 → offs.toNat = n.half →
      exec (.vshr n offs) s = .next (s.respond (.result (join zero128 (laneOf s.ports.reqA .lane1))))) ∧
    (n.elemN ≤ offs.toNat → exec (.vshr n offs) s = .next (s.respond (.result zero256)))

/-- VSHR case 4, sub-half, by the primitives and byte by byte (43_shift_right.md R74). -/
def Obligations.VshrSubHalfShift : Prop :=
  ∀ (n : ElemCount) (offs : Amount) (s : State), 0 < offs.toNat → offs.toNat < n.half →
    ∃ r, exec (.vshr n offs) s = .next (s.respond (.result r)) ∧
      r = join (bsr (laneOf s.ports.reqA .lane1) (offs.toNat * n.size))
        (win (laneOf s.ports.reqA .lane1) (laneOf s.ports.reqA .lane0) (offs.toNat * n.size)) ∧
      ∀ j < 16,
        byteOf r j = byteOf s.ports.reqA (j + offs.toNat * n.size) ∧
        byteOf r (16 + j) = (if j + offs.toNat * n.size ≤ 15 then
          byteOf s.ports.reqA (16 + j + offs.toNat * n.size) else 0)

/-- VSHR case 5, super-half, by the primitives and byte by byte (43_shift_right.md R75). -/
def Obligations.VshrSuperHalfShift : Prop :=
  ∀ (n : ElemCount) (offs : Amount) (s : State), n.half < offs.toNat → offs.toNat < n.elemN →
    ∃ r, exec (.vshr n offs) s = .next (s.respond (.result r)) ∧
      r = join zero128 (bsr (laneOf s.ports.reqA .lane1) ((offs.toNat - n.half) * n.size)) ∧
      ∀ j < 16,
        byteOf r j = (if j + (offs.toNat - n.half) * n.size ≤ 15 then
          byteOf s.ports.reqA (16 + j + (offs.toNat - n.half) * n.size) else 0) ∧
        byteOf r (16 + j) = 0

/-- VSHL is one 256-bit shift: for every element count, amount and state it completes with this result. The closed form is
the spec's inference ("The five-case form is normative because it is the document's; the closed form is derived",
42_shift_left.md). -/
def Obligations.VshlIsOneWideShift : Prop :=
  ∀ (n : ElemCount) (offs : Amount) (s : State),
    exec (.vshl n offs) s = .next (s.respond (.result
      (if offs.toNat < n.elemN then s.ports.reqA <<< (8 * n.size * offs.toNat) else zero256)))

/-- VSHR is one 256-bit logical shift: for every element count, amount and state it completes with this result. The closed
form is the spec's inference ("the closed form is derived", 43_shift_right.md). -/
def Obligations.VshrIsOneWideShift : Prop :=
  ∀ (n : ElemCount) (offs : Amount) (s : State),
    exec (.vshr n offs) s = .next (s.respond (.result
      (if offs.toNat < n.elemN then s.ports.reqA >>> (8 * n.size * offs.toNat) else zero256)))

/-! ### The laws -/

/-- Identity law (44_laws.md R80). -/
def Obligations.ShiftByZeroIsIdentity : Prop :=
  ∀ (n : ElemCount) (a : Value256), shiftLeft n 0 a = a ∧ shiftRight n 0 a = a

/-- Over-width law (44_laws.md R81): the encodable amounts, and every larger one through the assembler's folding. -/
def Obligations.OverWidthShiftIsZero : Prop :=
  ∀ (n : ElemCount) (a : Value256),
    (∀ offs : Amount, n.elemN ≤ offs.toNat → shiftLeft n offs a = zero256 ∧ shiftRight n offs a = zero256) ∧
    (∀ o : Nat, n.elemN ≤ o → shiftLeft n (foldAmount o) a = zero256 ∧ shiftRight n (foldAmount o) a = zero256)

/-- Element law, left; it also holds for amounts above the element count (44_laws.md R82). -/
def Obligations.ElementLawLeft : Prop :=
  ∀ (n : ElemCount) (offs : Amount) (a : Value256) (i : Nat), i < n.elemN →
    elemOf (shiftLeft n offs a) i n = if offs.toNat ≤ i then elemOf a (i - offs.toNat) n else 0

/-- Element law, right, for every amount: the spec's inference "the mirror" of the left law (44_laws.md, element law, right). -/
def Obligations.ElementLawRight : Prop :=
  ∀ (n : ElemCount) (offs : Amount) (a : Value256) (i : Nat), i < n.elemN →
    elemOf (shiftRight n offs a) i n = if i + offs.toNat ≤ n.elemN - 1 then elemOf a (i + offs.toNat) n else 0

/-- A value is determined by its elements, so the element laws determine the shifts (44_laws.md, element laws: the spec's inference
"The law determines `SHL` completely"). -/
def Obligations.ElementsDetermineTheValue : Prop :=
  ∀ (n : ElemCount) (a b : Value256), (∀ i < n.elemN, elemOf a i n = elemOf b i n) → a = b

/-- Half-width law: a move of one lane, the same for every element count of at least 2 (44_laws.md R84). -/
def Obligations.HalfWidthShiftMovesOneLane : Prop :=
  ∀ (n : ElemCount) (a : Value256), n ≠ .n1 →
    shiftLeft n (BitVec.ofNat 6 n.half) a = join (laneOf a .lane0) zero128 ∧
    shiftRight n (BitVec.ofNat 6 n.half) a = join zero128 (laneOf a .lane1)

/-- Composition law, an amount above 63 read as 63; with different element counts the byte amounts add. The document states
it for the left shift and sums up to the width; the rest is the spec's inference (44_laws.md, composition law). -/
def Obligations.ShiftsCompose : Prop :=
  (∀ (n : ElemCount) (p q : Amount) (a : Value256),
    shiftLeft n q (shiftLeft n p a) = shiftLeft n (foldAmount (p.toNat + q.toNat)) a ∧
    shiftRight n q (shiftRight n p a) = shiftRight n (foldAmount (p.toNat + q.toNat)) a) ∧
  (∀ (n m : ElemCount) (p q : Amount) (a : Value256),
    shiftLeft m q (shiftLeft n p a) = a <<< (8 * (p.toNat * n.size + q.toNat * m.size)) ∧
    shiftRight m q (shiftRight n p a) = a >>> (8 * (p.toNat * n.size + q.toNat * m.size)))

/-- No round trip: what left-then-right and right-then-left keep, and when they change nothing. The exact form is the spec's
inference (44_laws.md, no round trip). -/
def Obligations.OppositeShiftsAreNoRoundTrip : Prop :=
  ∀ (n : ElemCount) (o : Amount) (a : Value256), o.toNat ≤ n.elemN →
    (∀ i < n.elemN,
      elemOf (shiftRight n o (shiftLeft n o a)) i n = (if i + o.toNat ≤ n.elemN - 1 then elemOf a i n else 0) ∧
      elemOf (shiftLeft n o (shiftRight n o a)) i n = (if o.toNat ≤ i then elemOf a i n else 0)) ∧
    (shiftRight n o (shiftLeft n o a) = a ↔ ∀ i < n.elemN, n.elemN ≤ i + o.toNat → elemOf a i n = 0) ∧
    (shiftLeft n o (shiftRight n o a) = a ↔ ∀ i < n.elemN, i < o.toNat → elemOf a i n = 0)

/-- Mirror law: VSHR is VSHL between two reversals of the elements: the spec's inference (44_laws.md, mirror law). -/
def Obligations.RightShiftMirrorsLeftShift : Prop :=
  ∀ (n : ElemCount) (offs : Amount) (a b c : Value256),
    IsReverse n a b → IsReverse n (shiftLeft n offs b) c → shiftRight n offs a = c

/-! ### Faults and responses -/

/-- ILLEGAL completes with the response of the fault, and so does every word with `cmd[8:7] = 0b11`, whatever the rest of the
word and the operand; it is the only exception, and its cause code is 1 (60_exceptions.md sections 1 and 4).
That the model answers a next state with this response and nothing more is read from the spec by inference (log 8, DEDUCED). -/
def Obligations.IllegalRespondsWithTheFault : Prop :=
  (∀ (cmd : CmdWord) (s : State), exec (.illegal cmd) s = .next (s.respond (.fault .illegalCommand))) ∧
  (∀ (cmd : CmdWord) (s : State), cmd.extractLsb' 7 2 = 3#2 →
    exec (decode cmd) s = .next (s.respond (.fault .illegalCommand))) ∧
  (∀ f : Fault, f = .illegalCommand) ∧
  (Response.fault .illegalCommand).causeCode = 1 ∧ (∀ r : Value256, (Response.result r).causeCode = 0)

/-- A request faults exactly when bits 8 and 7 of its command word are set, for either direction, any amount and any operand
(60_exceptions.md R90). -/
def Obligations.FaultExactlyOnReservedWords : Prop :=
  ∀ (cmd : CmdWord) (a : Value256),
    (transact cmd a = .fault .illegalCommand ↔ cmd.extractLsb' 7 2 = 3#2) ∧
    ((lgnField cmd).toNat ≤ 5 → ∃ r, transact cmd a = .result r) ∧
    (cmd.extractLsb' 7 2 = 3#2 ↔ (lgnField cmd).toNat = 6 ∨ (lgnField cmd).toNat = 7)

/-- Exactly `LAT` cycles after a request is presented its response is on the response channel, and after a cycle without
a request there is none, if no reset comes in between: whatever the pipeline held before
(70_reset_and_hazards.md sections 4 and 5; 20_memory.md section 2).
Reset may be asserted in the response's own cycle: that it is still shown there is an inference (log 3, DEDUCED). -/
def Obligations.ResponseComesAfterExactlyLat : Prop :=
  ∀ s t : State, (∀ p ∈ (s.ports :: s.inputs).take s.lat, p.rst = false) →
    run s.lat s = .next t →
      t.response? = if s.ports.reqValid then some (transact s.ports.reqCmd s.ports.reqA) else none

/-- The wires of a response: `rsp_valid = 1`, `rsp_ill = 1` exactly for a reserved word, and `rsp_r` the result of a legal
word, for every value the unspecified wires could show (60_exceptions.md section 1, 70_reset_and_hazards.md section 4).
Reset may be asserted in the cycle in which the wires are read: that they still show the response is an inference (log 3,
DEDUCED). -/
def Obligations.ResponseWiresShowTheTransaction : Prop :=
  ∀ (s t : State), s.ports.reqValid = true → (∀ p ∈ (s.ports :: s.inputs).take s.lat, p.rst = false) →
    run s.lat s = .next t →
      t.rspValid = true ∧
      (t.rspIll = true ↔ s.ports.reqCmd.extractLsb' 7 2 = 3#2) ∧
      ∀ r, transact s.ports.reqCmd s.ports.reqA = .result r → t.rspR = r

/-- No step outside reset loses, adds, changes or reorders what is delivered, in flight or still to come
(20_memory.md section 5). -/
def Obligations.StepKeepsThePromisedResponses : Prop :=
  ∀ s t : State, s.inReset = false → step s = .next t → t.promised = s.promised

/-- After reset with any latency, what is promised is one response for each request the host presents, in order
(20_memory.md section 5). -/
def Obligations.PromisedAtReset : Prop :=
  ∀ (lat : Nat) (p : PortsIn) (ps : List PortsIn),
    ((State.resetWith lat).hostPlans p ps).promised = (p :: ps).filterMap PortsIn.response?

/-- Every run without reset ends with every promised response delivered and nothing owed, from every state
(70_reset_and_hazards.md sections 4 and 5). -/
def Obligations.RunDeliversEveryPromisedResponse : Prop :=
  ∀ s : State, s.noReset = true ∨ s.lat = 0 →
    ∃ t : State, run (s.inputs.length + 1 + s.lat) s = .next t ∧
      t.delivered = s.promised ∧ t.inFlight = [] ∧ t.runOver = true

/-- The `i`-th response after reset belongs to the `i`-th request after reset: whatever the latency, a run without reset
delivers one response for each request, in order (20_memory.md R25); two latencies give the same sequence
(70_reset_and_hazards.md R106), and the run is then over (R108). The `lat` cycles after the plan present nothing (log 5). -/
def Obligations.ResponsesFollowTheRequestsForEveryLatency : Prop :=
  ∀ (lat lat' : Nat) (p : PortsIn) (ps : List PortsIn), (∀ q ∈ p :: ps, q.rst = false) →
    ∃ t t' : State, run (ps.length + 1 + lat) ((State.resetWith lat).hostPlans p ps) = .next t ∧
      run (ps.length + 1 + lat') ((State.resetWith lat').hostPlans p ps) = .next t' ∧
      t.delivered = (p :: ps).filterMap PortsIn.response? ∧ t'.delivered = t.delivered ∧
      t.runOver = true ∧ t'.runOver = true

/-- Hosts that share an instance get, under every interleaving and matched by position, the responses that each gets from
an instance of its own (20_memory.md R28). -/
def Obligations.SharedInstanceAnswersLikeOwnInstances : Prop :=
  ∀ (lat lat' : Nat) (shared : List (Nat × PortsIn)) (host : Nat) (t u : State),
    (∀ q ∈ shared, q.2.rst = false ∧ q.2.reqValid = true) →
    run (shared.length + 1 + lat)
      ((State.resetWith lat).hostPlans .idle (shared.map (·.2))) = .next t →
    run ((shared.filter (·.1 == host)).length + 1 + lat')
      ((State.resetWith lat').hostPlans .idle ((shared.filter (·.1 == host)).map (·.2))) = .next u →
    t.delivered.length = shared.length ∧
    ((shared.zip t.delivered).filter (·.1.1 == host)).map (·.2) = u.delivered

/-- A faulting request has its own response and no other: every earlier and later request is answered as if it were alone
(60_exceptions.md sections 4 and 7). -/
def Obligations.FaultIsIsolated : Prop :=
  ∀ (lat : Nat) (before after : List PortsIn) (bad : PortsIn) (t : State),
    (∀ q ∈ before ++ bad :: after, q.rst = false) → bad.reqValid = true → bad.legal = false →
    run ((before ++ bad :: after).length + 1 + lat)
      ((State.resetWith lat).hostPlans .idle (before ++ bad :: after)) = .next t →
    t.delivered = before.filterMap PortsIn.response? ++ .fault .illegalCommand :: after.filterMap PortsIn.response? ∧
    t.runOver = true ∧ t.goodEnd = false

/-- Every step keeps a clean state clean: where no reserved word is presented, planned or in flight, no fault ever
appears (60_exceptions.md sections 1 and 3). -/
def Obligations.StepKeepsClean : Prop :=
  ∀ s t : State, s.clean = true → step s = .next t → t.clean = true

/-- Right after reset the state is clean, for every latency, and nothing is owed (70_reset_and_hazards.md sections 1 and 2).
That the ports are idle then is the model's choice (log 6). -/
def Obligations.ResetIsClean : Prop :=
  (∀ lat : Nat, (State.resetWith lat).clean = true ∧ (State.resetWith lat).inFlight = [] ∧
    (State.resetWith lat).lat = lat ∧ (State.resetWith lat).delivered = []) ∧
  State.reset = State.resetWith 0

/-- A run of legal requests without reset is over after its last response and ends well (70_reset_and_hazards.md section 5,
60_exceptions.md section 1). -/
def Obligations.CleanRunEndsWell : Prop :=
  ∀ s : State, s.clean = true → s.noReset = true →
    ∃ t : State, run (s.inputs.length + 1 + s.lat) s = .next t ∧ t.goodEnd = true

/-- Nothing depends on data but the value of the result: with every operand and result erased, the step does the same
and `rsp_valid` and `rsp_ill` are the same (41_dispatch.md R56, 70_reset_and_hazards.md section 4). While `rsp_valid = 0`
the spec leaves `rsp_ill` unspecified: that it is independent of data there too is the model's choice, a free value of the
counter alone (log 7, DESIGN CHOICE). -/
def Obligations.OnlyResultsDependOnData : Prop :=
  ∀ s t : State, step s = .next t →
    (∃ u : State, step s.eraseData = .next u ∧ u.eraseData = t.eraseData) ∧
    s.eraseData.rspValid = s.rspValid ∧ s.eraseData.rspIll = s.rspIll

/-! ### Reset -/

/-- Reset with `LAT > 0` drops everything in flight, ignores the request, restarts the numbering and keeps the latency;
with `LAT = 0` the input `rst` has no effect (70_reset_and_hazards.md R100). -/
def Obligations.ResetDropsEverythingInFlight : Prop :=
  (∀ s : State, s.ports.rst = true → 0 < s.lat →
    ∃ t : State, step s = .next t ∧ t.inFlight = [] ∧ t.delivered = [] ∧ t.lat = s.lat ∧
      t.promised = s.inputs.filterMap PortsIn.response?) ∧
  (∀ s : State, s.lat = 0 →
    step { s with ports := { s.ports with rst := true } } = step { s with ports := { s.ports with rst := false } })

/-- From a reset edge on, `rsp_valid = 0` until the response of a request accepted after it, whatever the host does: a response
on the channel is that of a request accepted `LAT` cycles before and after the reset. With `LAT = 0`, `rsp_valid` equals
`req_valid` at all times (70_reset_and_hazards.md R101). -/
def Obligations.NoResponseUntilARequestAfterReset : Prop :=
  (∀ (s t : State) (k : Nat), s.ports.rst = true → 0 < s.lat →
    run (k + 1) s = .next t → t.rspValid = true →
      ∃ (j : Nat) (u : State), k = j + s.lat ∧ run (j + 1) s = .next u ∧
        u.accepted?.isSome = true ∧ t.response? = u.entering) ∧
  (∀ s : State, s.lat = 0 → s.rspValid = s.ports.reqValid)

/-! ### The assembler and the chaining host -/

/-- The assembler's word, and what it rejects (30_encoding.md section 6). That a bad element count is reported first where the
amount is negative too is the model's choice (log 12, DESIGN CHOICE). -/
def Obligations.AssemblerEncodesOrRejects : Prop :=
  (∀ (n : ElemCount) (offs : Nat),
    (∃ w, assemble (.shift .left n.elemN offs) = .word w ∧ w.toNat = 0 * 512 + n.elemN.log2 * 64 + min offs 63) ∧
    (∃ w, assemble (.shift .right n.elemN offs) = .word w ∧ w.toNat = 1 * 512 + n.elemN.log2 * 64 + min offs 63)) ∧
  (∀ (d : Dir) (e : Nat) (offs : Int), e ∉ [1, 2, 4, 8, 16, 32] →
    assemble (.shift d e offs) = .rejected .badElemCount) ∧
  (∀ (d : Dir) (n : ElemCount) (offs : Int), offs < 0 →
    assemble (.shift d n.elemN offs) = .rejected .negativeAmount)

/-- Lines of text and what the assembler makes of them: case, comment, call spelling, folding and the rejected forms
(30_encoding.md section 6, 95_test_vectors.md section 2.2; that blanks separate words is the model's choice, log 12). -/
def Obligations.SampleLinesAssemble : Prop :=
  assembleLine ['V', 'S', 'H', 'L', '.', 'n', '8', ' ', '3'] = .word 0x0C3 ∧
  assembleLine ['v', 's', 'h', 'r', '.', 'n', '8', ' ', '3', ' ', ';', ' ', 'x'] = .word 0x2C3 ∧
  assembleLine ['V', 'S', 'H', 'L', '.', 'n', '8', ' ', '1', '0', '0'] = .word 0x0FF ∧
  assembleLine ['V', 'M', 'O', 'V'] = .word 0x000 ∧ assembleLine ['V', 'Z', 'E', 'R', 'O'] = .word 0x001 ∧
  assembleLine ['s', 'h', 'i', 'f', 't', '_', 'l', 'e', 'f', 't', '(', 'a', ',', ' ', '3', ',', ' ', '8', ')'] =
    .word 0x0C3 ∧
  assembleLine ['V', 'S', 'H', 'L', '.', 'n', '3', ' ', '1'] = .rejected .badElemCount ∧
  assembleLine ['V', 'S', 'H', 'L', '.', 'n', '6', '4', ' ', '1'] = .rejected .badElemCount ∧
  assembleLine ['V', 'S', 'H', 'L', '.', 'n', '8', ' ', '-', '1'] = .rejected .negativeAmount

/-- Amount folding is exact, VMOV is the identity and VZERO clears (30_encoding.md section 6). -/
def Obligations.FoldingAndPseudoInstructionsAreExact : Prop :=
  (∀ (n : ElemCount) (offs : Nat) (a : Value256), 63 < offs →
    assemble (.shift .left n.elemN offs) = .word (encode (.vshl n 63)) ∧
    assemble (.shift .right n.elemN offs) = .word (encode (.vshr n 63)) ∧
    transact (encode (.vshl n 63)) a = .result zero256 ∧ transact (encode (.vshr n 63)) a = .result zero256) ∧
  assemble .vmov = .word 0x000 ∧ (∀ a, transact 0x000 a = .result a) ∧
  assemble .vzero = .word 0x001 ∧ (∀ a, transact 0x001 a = .result zero256)

/-- No line of text makes the assembler emit a reserved word (60_exceptions.md section 1, 30_encoding.md section 6). -/
def Obligations.AssemblerNeverEmitsReservedWords : Prop :=
  ∀ (line : List Char) (w : CmdWord), assembleLine line = .word w → legalInstr (decode w) = true

/-- The chaining host: a program of legal words ends with a value; at the first reserved word it has faulted at that step,
and no later word matters (92_eei_decisions.md D16, 60_exceptions.md section 4). -/
def Obligations.ChainStopsAtTheFirstReservedWord : Prop :=
  (∀ (program : List CmdWord) (v : Value256), (∀ w ∈ program, legalInstr (decode w) = true) →
    ∃ v', chain program v = .value v') ∧
  (∀ (before after : List CmdWord) (w : CmdWord) (v : Value256),
    (∀ w ∈ before, legalInstr (decode w) = true) → legalInstr (decode w) = false →
    chain (before ++ w :: after) v = .faultedAt (before.length + 1))

/-- The chaining host on the machine: with any latency, waiting for each response, it is given as many responses as its
program has words and the last is its final value; or the response of the word it faulted at is the last it is given
(92_eei_decisions.md D16, 20_memory.md section 5). -/
def Obligations.ChainRunsOnTheMachine : Prop :=
  ∀ (lat : Nat) (program : List CmdWord) (v : Value256),
    ∃ t : State, run ((chainPlan lat program v).length + 1 + lat)
        ((State.resetWith lat).hostPlans .idle (chainPlan lat program v)) = .next t ∧
      t.runOver = true ∧
      (∀ v', chain program v = .value v' →
        t.faulted = false ∧ t.delivered.length = program.length ∧
        (program = [] → v' = v) ∧ (program ≠ [] → t.delivered.getLast? = some (.result v'))) ∧
      (∀ i, chain program v = .faultedAt i →
        t.delivered.length = i ∧ t.delivered.getLast? = some (.fault .illegalCommand))
end

