-- ==== Sys2Proof/Laws/Assembler.lean ====
section
/-! SUPPORT. What the assembler answers to a shift statement. -/

namespace Sys2Proof.Machine

theorem elemCountOfNumber?_elemN (n : ElemCount) : elemCountOfNumber? n.elemN = some n := by
  cases n <;> rfl

/-- Folding is the minimum with 63 (30_encoding.md R38). -/
@[simp] theorem foldAmount_toNat (o : Nat) : (foldAmount o).toNat = min o 63 := by
  simp [foldAmount, Config.maxAmount]

/-- A shift by a legal element count and a non-negative amount assembles (30_encoding.md R38, R39). -/
theorem assemble_shift (d : Dir) (n : ElemCount) (o : Nat) :
    assemble (.shift d n.elemN o) = .word (encode (.shift d n (foldAmount o))) := by
  simp only [assemble, elemCountOfNumber?_elemN]

end Sys2Proof.Machine
end

