-- ==== Sys2Proof/Laws/Decode.lean ====
section
/-! SUPPORT. The fields of a packed word, and what the decoder can answer. -/

namespace Sys2Proof

/-- The packed word bit by bit (30_encoding.md R30). -/
theorem packCmd_getLsbD (d : BitVec 1) (l : BitVec 3) (o : Amount) (i : Nat) :
    (packCmd d l o).getLsbD i =
      if i < 6 then o.getLsbD i else if i - 6 < 3 then l.getLsbD (i - 6) else d.getLsbD (i - 6 - 3) := by
  have h : (packCmd d l o).getLsbD i = if i < 6 then o.getLsbD i else (d ++ l).getLsbD (i - 6) :=
    BitVec.getLsbD_append
  rw [h, BitVec.getLsbD_append]

@[simp] theorem dirField_packCmd (d : BitVec 1) (l : BitVec 3) (o : Amount) : dirField (packCmd d l o) = d := by
  apply BitVec.eq_of_getLsbD_eq
  intro i hi
  rw [dirField, BitVec.getLsbD_extractLsb', packCmd_getLsbD, show i = 0 by omega]
  rfl

@[simp] theorem lgnField_packCmd (d : BitVec 1) (l : BitVec 3) (o : Amount) : lgnField (packCmd d l o) = l := by
  apply BitVec.eq_of_getLsbD_eq
  intro i hi
  rw [lgnField, BitVec.getLsbD_extractLsb', packCmd_getLsbD]
  simp [hi]

@[simp] theorem offsField_packCmd (d : BitVec 1) (l : BitVec 3) (o : Amount) : offsField (packCmd d l o) = o := by
  apply BitVec.eq_of_getLsbD_eq
  intro i hi
  rw [offsField, BitVec.getLsbD_extractLsb', packCmd_getLsbD]
  simp [hi]

@[simp] theorem ElemCount.ofLgn?_lgn (n : ElemCount) : ElemCount.ofLgn? n.lgn = some n := by cases n <;> rfl

/-- The reserved codes are the ones from 6 on (30_encoding.md R36). -/
theorem ElemCount.ofLgn?_eq_none_iff (l : BitVec 3) : ElemCount.ofLgn? l = none ↔ 6 ≤ l.toNat := by
  revert l; decide

/-- The decoder's two kinds of answer. -/
theorem decode_cases (cmd : CmdWord) :
    (ElemCount.ofLgn? (lgnField cmd) = none ∧ decode cmd = .illegal cmd) ∨
    (∃ n, ElemCount.ofLgn? (lgnField cmd) = some n ∧
      decode cmd = .shift (.ofField (dirField cmd)) n (offsField cmd)) := by
  cases h : ElemCount.ofLgn? (lgnField cmd) with
  | none => exact .inl ⟨rfl, by simp [decode, h]⟩
  | some n => exact .inr ⟨n, rfl, by simp [decode, h]⟩

end Sys2Proof
end

