-- ==== Sys2Proof/Laws/Lanes.lean ====
section
/-! SUPPORT. The primitives bit by bit, and what the dispatcher can answer. -/

namespace Sys2Proof

/-- An element count's numbers, row by row (30_encoding.md R32). -/
theorem ElemCount.numbers (n : ElemCount) :
    (n.elemN, n.size, n.half, n.ebits) =
      match n with
      | .n1 => (1, 32, 0, 256)
      | .n2 => (2, 16, 1, 128)
      | .n4 => (4, 8, 2, 64)
      | .n8 => (8, 4, 4, 32)
      | .n16 => (16, 2, 8, 16)
      | .n32 => (32, 1, 16, 8) := by
  cases n <;> rfl

/-- The elements fill the register (10_state.md R11). -/
theorem ElemCount.size_mul_elemN (n : ElemCount) : n.size * n.elemN = 32 := by cases n <;> rfl

/-- One lane holds `half` elements, for two elements or more (41_dispatch.md R53). -/
theorem ElemCount.half_mul_size {n : ElemCount} (h : n.half ≠ 0) : n.half * n.size = 16 := by
  cases n <;> first | rfl | exact absurd rfl h

/-- Halving loses nothing, for two elements or more (41_dispatch.md R55). -/
theorem ElemCount.elemN_eq_two_mul_half {n : ElemCount} (h : n.half ≠ 0) : n.elemN = 2 * n.half := by
  cases n <;> first | rfl | exact absurd rfl h

theorem ElemCount.elemN_pos (n : ElemCount) : 0 < n.elemN := by cases n <;> decide

theorem ElemCount.half_lt_elemN (n : ElemCount) : n.half < n.elemN := by cases n <;> decide

theorem ElemCount.ebits_eq (n : ElemCount) : n.ebits = 8 * n.size := rfl

namespace Machine

@[simp] theorem laneOf_lane0_getLsbD (a : Value256) (i : Nat) :
    (laneOf a .lane0).getLsbD i = (decide (i < 128) && a.getLsbD i) := by
  simp [laneOf]

@[simp] theorem laneOf_lane1_getLsbD (a : Value256) (i : Nat) :
    (laneOf a .lane1).getLsbD i = (decide (i < 128) && a.getLsbD (128 + i)) := by
  simp [laneOf]

@[simp] theorem join_getLsbD (hi lo : Lane) (i : Nat) :
    (join hi lo).getLsbD i = if i < 128 then lo.getLsbD i else hi.getLsbD (i - 128) := by
  simp only [join]
  exact BitVec.getLsbD_append

@[simp] theorem bsl_getLsbD (x : Lane) (k i : Nat) :
    (bsl x k).getLsbD i = (decide (k < 16) && decide (i < 128) && decide (8 * k ≤ i) && x.getLsbD (i - 8 * k)) := by
  unfold bsl
  split <;> rename_i h
  · simp [h]; grind
  · simp [h, zero128]

@[simp] theorem bsr_getLsbD (x : Lane) (k i : Nat) :
    (bsr x k).getLsbD i = (decide (k < 16) && x.getLsbD (8 * k + i)) := by
  unfold bsr
  split <;> rename_i h <;> simp [h, zero128]

@[simp] theorem win_getLsbD (hi lo : Lane) (k i : Nat) :
    (win hi lo k).getLsbD i = (decide (k < 32) && decide (i < 128) && (join hi lo).getLsbD (8 * k + i)) := by
  unfold win
  split <;> rename_i h <;> simp [h, zero128, -join_getLsbD]

@[simp] theorem byteOf_getLsbD (a : Value256) (j i : Nat) :
    (byteOf a j).getLsbD i = (decide (i < 8) && a.getLsbD (8 * j + i)) := by
  simp [byteOf]

@[simp] theorem laneByteOf_getLsbD (x : Lane) (j i : Nat) :
    (laneByteOf x j).getLsbD i = (decide (i < 8) && x.getLsbD (8 * j + i)) := by
  simp [laneByteOf]

@[simp] theorem elemOf_getLsbD (a : Value256) (j i : Nat) (n : ElemCount) :
    (elemOf a j n).getLsbD i = (decide (i < n.ebits) && a.getLsbD (n.ebits * j + i)) := by
  simp [elemOf]

/-- Everything the dispatcher can answer, with the condition of each case (41_dispatch.md R51, R53). -/
theorem shiftDispatch_cases (n : ElemCount) (offs : Amount) :
    (offs.toNat = 0 ∧ shiftDispatch n offs = .zero) ∨
    (offs.toNat ≠ 0 ∧ offs.toNat = n.half ∧ shiftDispatch n offs = .half) ∨
    (n.elemN ≤ offs.toNat ∧ shiftDispatch n offs = .full) ∨
    (0 < offs.toNat ∧ offs.toNat < n.half ∧
      shiftDispatch n offs = .sub (offs.toNat * n.size) ((n.half - offs.toNat) * n.size)) ∨
    (n.half < offs.toNat ∧ offs.toNat < n.elemN ∧
      shiftDispatch n offs = .super ((offs.toNat - n.half) * n.size)) := by
  simp only [shiftDispatch]
  split_ifs <;> (simp_all; try omega)

end Machine
end Sys2Proof
end

