-- ==== Sys2Proof/Laws/State.lean ====
section
/-! SUPPORT. What each update of the state leaves in each field. -/

namespace Sys2Proof.Machine

variable (s : State) (e : Option Response) (r : Response) (cmd : CmdWord)

@[simp] theorem State.clockEdge_ports : (s.clockEdge e).ports = s.nextPorts := rfl
@[simp] theorem State.clockEdge_inputs : (s.clockEdge e).inputs = s.inputs.tail := rfl
@[simp] theorem State.clockEdge_pipe : (s.clockEdge e).pipe = staying e s.pipe := rfl
@[simp] theorem State.clockEdge_delivered :
    (s.clockEdge e).delivered = s.delivered ++ (leaving e s.pipe).toList := rfl
@[simp] theorem State.clockEdge_draw : (s.clockEdge e).draw = s.draw + 1 := rfl

@[simp] theorem State.resetEdge_ports : s.resetEdge.ports = s.nextPorts := rfl
@[simp] theorem State.resetEdge_inputs : s.resetEdge.inputs = s.inputs.tail := rfl
@[simp] theorem State.resetEdge_pipe : s.resetEdge.pipe = List.replicate s.lat none := rfl
@[simp] theorem State.resetEdge_delivered : s.resetEdge.delivered = [] := rfl
@[simp] theorem State.resetEdge_draw : s.resetEdge.draw = s.draw + 1 := rfl

@[simp] theorem State.present_reqCmd : (s.present cmd).ports.reqCmd = cmd := rfl
@[simp] theorem State.present_reqValid : (s.present cmd).ports.reqValid = true := rfl
@[simp] theorem State.present_rst : (s.present cmd).ports.rst = false := rfl
@[simp] theorem State.present_reqA : (s.present cmd).ports.reqA = s.ports.reqA := rfl
@[simp] theorem State.present_inputs : (s.present cmd).inputs = s.inputs := rfl
@[simp] theorem State.present_pipe : (s.present cmd).pipe = s.pipe := rfl
@[simp] theorem State.present_delivered : (s.present cmd).delivered = s.delivered := rfl
@[simp] theorem State.present_draw : (s.present cmd).draw = s.draw := rfl

theorem State.respond_eq_clockEdge : s.respond r = s.clockEdge (some r) := rfl
theorem State.raise_eq_respond (f : Fault) : s.raise f = s.respond (.fault f) := rfl

@[simp] theorem State.resetWith_pipe (lat : Nat) : (State.resetWith lat).pipe = List.replicate lat none := rfl
@[simp] theorem State.resetWith_delivered (lat : Nat) : (State.resetWith lat).delivered = [] := rfl
@[simp] theorem State.resetWith_inputs (lat : Nat) : (State.resetWith lat).inputs = [] := rfl
@[simp] theorem State.resetWith_ports (lat : Nat) : (State.resetWith lat).ports = .idle := rfl

/-- The pipeline keeps its length at every clock edge. -/
@[simp] theorem staying_length (pipe : List (Option Response)) : (staying e pipe).length = pipe.length := by
  simp [staying]

@[simp] theorem State.clockEdge_lat : (s.clockEdge e).lat = s.lat := staying_length e s.pipe
@[simp] theorem State.resetEdge_lat : s.resetEdge.lat = s.lat := by simp [State.lat]
@[simp] theorem State.resetWith_lat (lat : Nat) : (State.resetWith lat).lat = lat := by simp [State.lat]

end Sys2Proof.Machine
end

