-- ==== Sys2Proof/Laws/Ops.lean ====
section
/-! SUPPORT. What an instruction, a clock edge and a step can do, said once. -/

namespace Sys2Proof.Machine

/-- With no pipeline register, what enters leaves at once. -/
@[simp] theorem leaving_nil (e : Option Response) : leaving e [] = e := rfl

/-- What leaves a pipeline does not depend on what enters it, once it has a register. -/
theorem leaving_of_ne_nil {pipe : List (Option Response)} (h : pipe ≠ []) (e : Option Response) :
    leaving e pipe = pipe.getLast h := by
  rw [leaving, List.getLastD_eq_getLast?, List.getLast?_eq_some_getLast h, Option.getD_some]

/-- A pipeline and what enters it hold the same before and after the edge: one stage on, the oldest out. -/
theorem staying_append_leaving (e : Option Response) (pipe : List (Option Response)) :
    staying e pipe ++ [leaving e pipe] = e :: pipe := by
  have h : leaving e pipe = (e :: pipe).getLast (List.cons_ne_nil e pipe) := by
    cases pipe with
    | nil => rfl
    | cons x xs => rw [leaving_of_ne_nil (List.cons_ne_nil x xs), List.getLast_cons (List.cons_ne_nil x xs)]
  rw [staying, h, List.dropLast_append_getLast]

/-- A clock edge moves every response one place on: what is delivered and in flight stays, with the entering response behind. -/
theorem delivered_append_inFlight_clockEdge (s : State) (e : Option Response) :
    (s.clockEdge e).delivered ++ (s.clockEdge e).inFlight = s.delivered ++ s.inFlight ++ e.toList := by
  have h := congrArg (fun l => l.reverse.filterMap id) (staying_append_leaving e s.pipe)
  simp only [List.reverse_append, List.reverse_cons, List.filterMap_append, List.reverse_nil, List.nil_append] at h
  have single (o : Option Response) : [o].filterMap id = o.toList := by cases o <;> rfl
  rw [single, single] at h
  simp only [State.inFlight, State.clockEdge_delivered, State.clockEdge_pipe, List.append_assoc]
  rw [h]

/-- The ports and plan of the next cycle ask for what the plan asked for. -/
theorem filterMap_response?_nextPorts (s : State) :
    (s.nextPorts :: s.inputs.tail).filterMap PortsIn.response? = s.inputs.filterMap PortsIn.response? := by
  cases h : s.inputs with
  | nil => simp [State.nextPorts, h, PortsIn.response?]
  | cons p ps => simp [State.nextPorts, h]

/-- Every instruction ends its transaction with its response to the operand on the ports. -/
theorem exec_eq_respond (i : Instr) (s : State) :
    exec i s = .next (s.respond (responseOf i s.ports.reqA)) := by
  cases i <;> rfl

theorem State.accepted?_of_request {s : State} (hr : s.inReset = false) (hv : s.ports.reqValid = true) :
    s.accepted? = some s.ports.reqCmd := by
  simp [State.accepted?, hr, hv]

theorem State.accepted?_of_no_request {s : State} (hv : s.ports.reqValid = false) : s.accepted? = none := by
  simp [State.accepted?, hv]

theorem State.accepted?_of_inReset {s : State} (hr : s.inReset = true) : s.accepted? = none := by
  simp [State.accepted?, hr]

/-- With no pipeline register there is no reset. -/
theorem State.inReset_of_pipe_nil {s : State} (h : s.pipe = []) : s.inReset = false := by
  simp [State.inReset, State.lat, h]

/-- Everything a step can do: a reset edge in reset, else a clock edge that the accepted request's response enters. -/
theorem step_eq (s : State) :
    step s = .next (if s.inReset then s.resetEdge else s.clockEdge s.entering) := by
  by_cases hr : s.inReset = true
  · simp [step, State.cycle, hr]
  · cases ha : s.accepted? with
    | none => simp [step, State.cycle, hr, ha, State.entering]
    | some cmd =>
      have hcmd : cmd = s.ports.reqCmd := by
        simp only [State.accepted?] at ha
        split at ha <;> simp_all
      subst hcmd
      simp [step, State.cycle, hr, ha, exec_eq_respond, State.entering, transact, State.respond_eq_clockEdge]

theorem step_of_inReset {s : State} (h : s.inReset = true) : step s = .next s.resetEdge := by
  simp [step_eq, h]

theorem step_of_not_inReset {s : State} (h : s.inReset = false) : step s = .next (s.clockEdge s.entering) := by
  simp [step_eq, h]

@[simp] theorem run_zero (s : State) : run 0 s = .next s := rfl

/-- A run of any machine goes on from the state of its first step. -/
theorem coreRun_of_step (M : Host.Core) (k : Nat) {s t : M.State} (h : M.step s = .next t) :
    M.run (k + 1) s = M.run k t := by
  simp only [Host.Core.run, h]

/-- A run goes on from the state of its first step. -/
theorem run_of_step (k : Nat) {s t : State} (h : step s = .next t) : run (k + 1) s = run k t :=
  coreRun_of_step Sys2Proof.core k h

theorem run_succ (k : Nat) (s : State) :
    run (k + 1) s = run k (if s.inReset then s.resetEdge else s.clockEdge s.entering) :=
  run_of_step k (step_eq s)

theorem run_succ_of_inReset (k : Nat) {s : State} (h : s.inReset = true) : run (k + 1) s = run k s.resetEdge :=
  run_of_step k (step_of_inReset h)

theorem run_succ_of_not_inReset (k : Nat) {s : State} (h : s.inReset = false) :
    run (k + 1) s = run k (s.clockEdge s.entering) :=
  run_of_step k (step_of_not_inReset h)

/-- A run in two parts. -/
theorem run_add (j k : Nat) {s t : State} (h : run j s = .next t) : run (j + k) s = run k t := by
  induction j generalizing s with
  | zero => rw [run_zero] at h; cases h; rw [Nat.zero_add]
  | succ j ih =>
    rw [run_succ] at h
    rw [show j + 1 + k = (j + k) + 1 by omega, run_succ]
    exact ih h

end Sys2Proof.Machine
end

