-- ==== Sys2Proof/Laws/PerInstr.lean ====
section
/-! SUPPORT. The statements made per instruction. -/

namespace Sys2Proof.Laws.OpcodeRow

/-- The word of a well-formed instruction matches its row of the opcode map: VSHL `0x000` under mask `0x200`, VSHR `0x200`
under `0x200`, both outside the reserved pattern, and ILLEGAL `0x180` under `0x180` (30_encoding.md R35). -/
def Statement (i : Instr) : Prop :=
  i.wf = true →
    match i with
    | .vshl _ _ => encode i &&& 0x200#10 = 0x000#10 ∧ encode i &&& 0x180#10 ≠ 0x180#10
    | .vshr _ _ => encode i &&& 0x200#10 = 0x200#10 ∧ encode i &&& 0x180#10 ≠ 0x180#10
    | .illegal _ => encode i &&& 0x180#10 = 0x180#10

theorem vshl (n : ElemCount) (offs : Amount) : Statement (.vshl n offs) := by
  intro _
  cases n <;> revert offs <;> decide

theorem vshr (n : ElemCount) (offs : Amount) : Statement (.vshr n offs) := by
  intro _
  cases n <;> revert offs <;> decide

theorem illegal (cmd : CmdWord) : Statement (.illegal cmd) := by
  intro h
  have h7 : cmd.extractLsb' 7 2 = 3#2 := by simpa [Instr.wf] using h
  have hb (i : Nat) (hi : i < 2) : cmd.getLsbD (7 + i) = true := by
    have := congrArg (fun x => BitVec.getLsbD x i) h7
    simp only [BitVec.getLsbD_extractLsb', hi, decide_true, Bool.true_and] at this
    rw [this]
    interval_cases i <;> rfl
  show cmd &&& 0x180#10 = 0x180#10
  apply BitVec.eq_of_getLsbD_eq
  intro i hi
  have h0 := hb 0 (by omega)
  have h1 := hb 1 (by omega)
  interval_cases i <;> simp_all

end Sys2Proof.Laws.OpcodeRow
end

