-- ==== Sys2Proof/Tests/Slice0.lean ====
section
/-! SUPPORT. Tests. Expected values are the spec's own: 95_test_vectors.md, and the worked examples of the rules. -/

namespace Sys2Proof.Tests

open Sys2Proof.Machine

/-! ### Helpers -/

/-- The operand `A`: byte `j` holds `j + 1` (95_test_vectors.md). -/
def opA : Value256 := 0x201F1E1D1C1B1A191817161514131211100F0E0D0C0B0A090807060504030201

/-- The operand `S`: elements 1 to 8 of four bytes each (95_test_vectors.md). -/
def opS : Value256 := 0x0000000800000007000000060000000500000004000000030000000200000001

/-- Port values that present a request. -/
def request (cmd : CmdWord) (a : Value256) : PortsIn := .request cmd a

/-- Port values that assert reset. -/
def reset : PortsIn := { rst := true, reqValid := true, reqCmd := 0x000, reqA := opA }

/-- An instance of this latency right after reset whose host presents these values. -/
def fresh (lat : Nat) (p : PortsIn) (ps : List PortsIn) : State := (State.resetWith lat).hostPlans p ps

/-- The responses delivered after one step, if it answers a next state. -/
def stepDelivers (s : State) : Option (List Response) :=
  match step s with
  | .next t => some t.delivered
  | .fault _ => none
  | .refused _ => none

/-- One request on a combinational instance: the response of its step. -/
def answer (cmd : CmdWord) (a : Value256) : Option (List Response) := stepDelivers (fresh 0 (request cmd a) [])

/-! ### Well-formedness -/

/-- The words nearest to the reserved space are no ILLEGAL instruction (30_encoding.md R36). -/
theorem test_wf_refuses_legal_words :
    (Instr.illegal 0x17F).wf = false ∧ (Instr.illegal 0x37F).wf = false ∧ (Instr.illegal 0x000).wf = false := by decide

theorem test_wf_accepts_reserved_words :
    (Instr.illegal 0x180).wf = true ∧ (Instr.illegal 0x3FF).wf = true := by decide

/-! ### Decoding: words of 95_test_vectors.md section 2.2 -/

theorem test_decode_vshl :
    decode 0b0000000000#10 = .vshl .n1 0 ∧ decode 0b0001000001#10 = .vshl .n2 1 ∧
    decode 0b0010000011#10 = .vshl .n4 3 ∧ decode 0b0011000011#10 = .vshl .n8 3 ∧
    decode 0b0100000111#10 = .vshl .n16 7 ∧ decode 0b0101111111#10 = .vshl .n32 63 := by decide

theorem test_decode_vshr :
    decode 0b1000000000#10 = .vshr .n1 0 ∧ decode 0b1011000011#10 = .vshr .n8 3 ∧
    decode 0b1101010000#10 = .vshr .n32 16 ∧ decode 0b1101111111#10 = .vshr .n32 63 := by decide

theorem test_decode_illegal :
    decode 0b0110000000#10 = .illegal 0x180 ∧ decode 0b0111111111#10 = .illegal 0x1FF ∧
    decode 0b1110000000#10 = .illegal 0x380 ∧ decode 0b1111000101#10 = .illegal 0x3C5 := by decide

theorem test_encode_words :
    encode (.vshl .n8 3) = 0x0C3 ∧ encode (.vshr .n8 3) = 0x2C3 ∧ encode (.vshr .n32 63) = 0x37F := by decide

theorem test_decode_table_word :
    decodeTableWord 16 0x2C3 = some (.vshr .n8 3) ∧ decodeTableWord 10 0x180 = some (.illegal 0x180) ∧
    decodeTableWord 16 0x400 = none := by decide

/-! ### Parameters (00_scope.md R5) -/

theorem test_parameters :
    Config.regBits = 8 * Config.regBytes ∧ Config.laneBits = 8 * Config.laneBytes ∧
    Config.regBits = Config.lanes * Config.laneBits ∧ Config.cmdBits = 1 + Config.lgnWidth + Config.offsWidth ∧
    Config.maxAmount = 2 ^ Config.offsWidth - 1 := by decide

/-! ### Primitives: vectors of 95_test_vectors.md section 2.3 -/

theorem test_byte_shifts :
    bsl (laneOf opA .lane0) 15 = 0x01000000000000000000000000000000 ∧
    bsl (laneOf opA .lane0) 4 = 0x0C0B0A09080706050403020100000000 ∧
    bsr (laneOf opA .lane1) 12 = 0x000000000000000000000000201F1E1D ∧ bsr (laneOf opA .lane1) 16 = 0 := by decide

theorem test_window :
    win (laneOf opA .lane1) (laneOf opA .lane0) 1 = 0x11100F0E0D0C0B0A0908070605040302 ∧
    win (laneOf opA .lane1) (laneOf opA .lane0) 17 = 0x00201F1E1D1C1B1A1918171615141312 ∧
    win (laneOf opA .lane1) (laneOf opA .lane0) 32 = 0 := by decide

theorem test_lane_permute :
    laneSel opA .l0 .z = 0x100F0E0D0C0B0A09080706050403020100000000000000000000000000000000 ∧
    laneSel opA .l0 .l1 = 0x100F0E0D0C0B0A090807060504030201201F1E1D1C1B1A191817161514131211 := by decide

/-! ### The instructions, one step each -/

/-- Vector S1 (document section 8), SUB, and the byte-granular `VSHL.n32 5` of section 2.4. -/
theorem test_vshl_sub :
    answer 0x0C3 opS = some [.result 0x0000000500000004000000030000000200000001000000000000000000000000] ∧
    answer 0x145 opA = some [.result 0x1B1A191817161514131211100F0E0D0C0B0A0908070605040302010000000000] := by decide

/-- Vectors S3 (HALF), S4 (FULL) and `VSHL.n32 27` (SUPER); amount 0 with one element is the identity (41_dispatch.md R51). -/
theorem test_vshl_other_cases :
    answer 0x0C4 opS = some [.result 0x0000000400000003000000020000000100000000000000000000000000000000] ∧
    answer 0x0C8 opS = some [.result 0] ∧
    answer 0x15B opA = some [.result 0x0504030201000000000000000000000000000000000000000000000000000000] ∧
    answer 0x000 opA = some [.result opA] := by decide

/-- Vector S2 (document section 8), SUB, and `VSHR.n8 1` of all-ones: logical, not arithmetic (section 2.6). -/
theorem test_vshr_sub :
    answer 0x2C3 opS = some [.result 0x0000000000000000000000000000000800000007000000060000000500000004] ∧
    answer 0x2C1 (BitVec.allOnes 256) =
      some [.result 0x00000000FFFFFFFFFFFFFFFFFFFFFFFFFFFFFFFFFFFFFFFFFFFFFFFFFFFFFFFF] := by decide

/-- `VSHR.n16 8` (HALF), `VSHR.n16 15` (SUPER), `VSHR.n32 63` (FULL) and `VSHR.n1 0` (ZERO), section 2.5. -/
theorem test_vshr_other_cases :
    answer 0x308 opA = some [.result 0x00000000000000000000000000000000201F1E1D1C1B1A191817161514131211] ∧
    answer 0x30F opA = some [.result 0x000000000000000000000000000000000000000000000000000000000000201F] ∧
    answer 0x37F opA = some [.result 0] ∧ answer 0x200 opA = some [.result opA] := by decide

/-- The reserved words of section 2.6, either direction. -/
theorem test_illegal_faults :
    answer 0x180 opA = some [.fault .illegalCommand] ∧ answer 0x3FF opS = some [.fault .illegalCommand] := by decide

/-- The first command after reset runs (70_reset_and_hazards.md R102), on the operand 0 of the ports at reset. -/
theorem test_first_command_after_reset :
    stepDelivers (State.reset.withFetchWord 16 0x2C3) = some [.result 0] ∧
    stepDelivers (State.reset.withFetchWord 16 0x180) = some [.fault .illegalCommand] := by decide

/-! ### Cycles: latency and reset -/

/-- With `LAT = 1` nothing is delivered in the cycle of the request (70_reset_and_hazards.md R106). -/
theorem test_latency_one_step :
    stepDelivers (fresh 1 (request 0x0C3 opS) []) = some [] ∧
    stepDelivers { fresh 1 (request 0x000 opS) [] with pipe := [some (.result opA)] } = some [.result opA] := by decide

/-- Reset drops what is in flight with `LAT > 0` and does nothing with `LAT = 0` (70_reset_and_hazards.md R100). -/
theorem test_reset_step :
    stepDelivers { fresh 1 reset [] with pipe := [some (.result opS)], delivered := [.result opS] } = some [] ∧
    stepDelivers (fresh 0 reset []) = some [.result opA] := by decide

/-- The wires in the cycle of a request with `LAT = 0` (20_memory.md R21). -/
theorem test_wires :
    (fresh 0 (request 0x180 opA) []).rspIll = true ∧ (fresh 0 (request 0x0C8 opA) []).rspIll = false ∧
    (fresh 0 (request 0x000 opA) []).rspR = opA ∧ (fresh 0 .idle []).rspValid = false := by decide

/-! ### The assembler (95_test_vectors.md section 2.2) -/

theorem test_assemble_lines :
    assembleLine ['V', 'S', 'H', 'R', '.', 'n', '3', '2', ' ', '6', '4'] = .word 0x37F ∧
    assembleLine ['S', 'H', 'I', 'F', 'T', '_', 'R', 'I', 'G', 'H', 'T', '(', 'a', ',', '3', ',', '8', ')', '-', '>', 'r'] =
      .word 0x2C3 ∧
    assembleLine ['V', 'S', 'H', 'L', ' ', '1'] = .rejected .badSyntax ∧
    assembleLine [' ', ';', 'V', 'M', 'O', 'V'] = .nothing := by decide

/-- Program P5: a reserved word in the chain stops it at step 2 (95_test_vectors.md section 3). -/
theorem test_chain_p5 : chain [0x0C2, 0x1C2, 0x2C2] opS = .faultedAt 2 := by decide

/-! ### Witnesses: inputs that meet the hypotheses of each statement, at the ends of its clauses' ranges -/

theorem witness_DecodeOfEncodeIsTheInstruction :
    (Instr.illegal 0x180).wf = true ∧ (Instr.vshl .n32 63).wf = true ∧ (Instr.vshr .n1 0).wf = true := by decide

theorem witness_DecoderFollowsOpcodeMap :
    (0x1FF#10 &&& 0x180#10 = 0x180#10) ∧ (0x17F#10 &&& 0x180#10 ≠ 0x180#10 ∧ 0x17F#10 &&& 0x200#10 = 0x000#10) ∧
    (0x200#10 &&& 0x180#10 ≠ 0x180#10 ∧ 0x200#10 &&& 0x200#10 = 0x200#10) := by decide

theorem witness_StepRunsTheDecodedInstruction :
    (fresh 1 (request 0x0C3 opS) []).inReset = false ∧ (fresh 1 (request 0x0C3 opS) []).ports.reqValid = true ∧
    (Instr.vshl .n8 3).wf = true ∧ (fresh 1 (request 0x0C3 opS) []).ports.reqCmd = encode (.vshl .n8 3) := by decide

theorem witness_WithFetchWordRunsTheWord : (1023 : Nat) < 1024 ∧ (0 : Nat) < 1024 := by decide

theorem witness_CycleWithoutRequestAddsNoResponse :
    (fresh 1 .idle []).inReset = false ∧ (fresh 1 .idle []).ports.reqValid = false := by decide

theorem witness_FrameOfEveryInstruction :
    (∃ t : State, exec (.vshl .n8 3) (fresh 0 (request 0x0C3 opS) []) = .next t) ∧
    (∃ t : State, exec (.illegal 0x180) (fresh 2 (request 0x180 opS) []) = .next t) ∧
    (fresh 0 (request 0x0C3 opS) []).lat = 0 ∧ 0 < (fresh 2 (request 0x180 opS) []).lat :=
  ⟨⟨_, rfl⟩, ⟨_, rfl⟩, by decide, by decide⟩

theorem witness_LatencyNeverChanges : ∃ t : State, step (fresh 2 reset []) = .next t := ⟨_, rfl⟩

theorem witness_LanesAndJoin : (15 : Nat) < 16 ∧ (0 : Nat) < 16 := by decide

theorem witness_ByteShiftsStayInTheirLane : (15 : Nat) < 16 ∧ (16 : Nat) ≤ 16 := by decide

theorem witness_WindowReadsTheConcatenation : (31 : Nat) < 32 ∧ (32 : Nat) ≤ 32 ∧ (15 : Nat) < 16 := by decide

theorem witness_ElementsAreWholeBytesOfOneLane :
    (3 < ElemCount.n8.elemN ∧ 3 < ElemCount.n8.size ∧ ElemCount.n8 ≠ .n1 ∧ 3 < ElemCount.n8.half) ∧
    (4 < ElemCount.n8.elemN ∧ ElemCount.n8.half ≤ 4) ∧ (0 < ElemCount.n1.elemN ∧ 31 < ElemCount.n1.size) := by decide

theorem witness_ByteAmountsAreOneToFifteen :
    shiftDispatch .n32 15 = .sub 15 1 ∧ shiftDispatch .n4 1 = .sub 8 8 ∧ shiftDispatch .n32 17 = .super 1 ∧
    shiftDispatch .n32 31 = .super 15 := by decide

theorem witness_VshlZeroHalfAndFullShift :
    (0 : Amount).toNat = 0 ∧ ((16 : Amount).toNat ≠ 0 ∧ (16 : Amount).toNat = ElemCount.n32.half) ∧
    ElemCount.n32.elemN ≤ (32 : Amount).toNat ∧ ElemCount.n1.elemN ≤ (1 : Amount).toNat := by decide

theorem witness_VshlSubHalfShift :
    (0 < (15 : Amount).toNat ∧ (15 : Amount).toNat < ElemCount.n32.half) ∧
    (0 < (1 : Amount).toNat ∧ (1 : Amount).toNat < ElemCount.n4.half) ∧
    (15 : Amount).toNat * ElemCount.n32.size ≤ 15 ∧ ¬ (15 : Amount).toNat * ElemCount.n32.size ≤ 14 := by decide

theorem witness_VshlSuperHalfShift :
    (ElemCount.n32.half < (17 : Amount).toNat ∧ (17 : Amount).toNat < ElemCount.n32.elemN) ∧
    (ElemCount.n32.half < (31 : Amount).toNat ∧ (31 : Amount).toNat < ElemCount.n32.elemN) := by decide

theorem witness_VshrZeroHalfAndFullShift :
    (0 : Amount).toNat = 0 ∧ ((1 : Amount).toNat ≠ 0 ∧ (1 : Amount).toNat = ElemCount.n2.half) ∧
    ElemCount.n2.elemN ≤ (2 : Amount).toNat ∧ ElemCount.n2.elemN ≤ (63 : Amount).toNat := by decide

theorem witness_VshrSubHalfShift :
    (0 < (7 : Amount).toNat ∧ (7 : Amount).toNat < ElemCount.n16.half) ∧
    (0 < (1 : Amount).toNat ∧ (1 : Amount).toNat < ElemCount.n16.half) := by decide

theorem witness_VshrSuperHalfShift :
    (ElemCount.n16.half < (9 : Amount).toNat ∧ (9 : Amount).toNat < ElemCount.n16.elemN) ∧
    (ElemCount.n16.half < (15 : Amount).toNat ∧ (15 : Amount).toNat < ElemCount.n16.elemN) := by decide

theorem witness_OverWidthShiftIsZero : ElemCount.n8.elemN ≤ (8 : Amount).toNat ∧ ElemCount.n8.elemN ≤ 1000000 := by
  decide

theorem witness_ElementLawLeft : 7 < ElemCount.n8.elemN ∧ (7 : Amount).toNat ≤ 7 ∧ ¬ (7 : Amount).toNat ≤ 6 := by decide

theorem witness_ElementLawRight :
    0 < ElemCount.n8.elemN ∧ 0 + (7 : Amount).toNat ≤ ElemCount.n8.elemN - 1 ∧
    ¬ 1 + (7 : Amount).toNat ≤ ElemCount.n8.elemN - 1 := by decide

theorem witness_ElementsDetermineTheValue : ∀ i < ElemCount.n8.elemN, elemOf opS i .n8 = elemOf opS i .n8 :=
  fun _ _ => rfl

theorem witness_HalfWidthShiftMovesOneLane : ElemCount.n2 ≠ .n1 ∧ ElemCount.n32 ≠ .n1 := by decide

theorem witness_OppositeShiftsAreNoRoundTrip :
    (8 : Amount).toNat ≤ ElemCount.n8.elemN ∧ (0 : Amount).toNat ≤ ElemCount.n8.elemN ∧
    (∀ i < ElemCount.n8.elemN, ElemCount.n8.elemN ≤ i + (0 : Amount).toNat → elemOf opS i .n8 = 0) ∧
    (∀ i < ElemCount.n8.elemN, i < (0 : Amount).toNat → elemOf opS i .n8 = 0) := by decide

/-- The mirror vector of 95_test_vectors.md section 2.7: `S` reversed, and the left shift of that reversed again. -/
theorem witness_RightShiftMirrorsLeftShift :
    IsReverse .n8 opS 0x0000000100000002000000030000000400000005000000060000000700000008 ∧
    IsReverse .n8 (shiftLeft .n8 3 0x0000000100000002000000030000000400000005000000060000000700000008)
      0x0000000000000000000000000000000800000007000000060000000500000004 := by
  unfold IsReverse
  decide

theorem witness_IllegalRespondsWithTheFault :
    (0x180 : CmdWord).extractLsb' 7 2 = 3#2 ∧ (0x3FF : CmdWord).extractLsb' 7 2 = 3#2 := by decide

theorem witness_FaultExactlyOnReservedWords :
    (lgnField 0x17F).toNat ≤ 5 ∧ (lgnField 0x1BF).toNat = 6 ∧ (lgnField 0x1C0).toNat = 7 ∧
    (0x1BF : CmdWord).extractLsb' 7 2 = 3#2 := by decide

theorem witness_ResponseComesAfterExactlyLat :
    (∀ p ∈ (request 0x0C3 opS :: [reset]).take 1, p.rst = false) ∧
    (∃ t : State, run 1 (fresh 1 (request 0x0C3 opS) [reset]) = .next t) ∧
    (∃ t : State, run 0 (fresh 0 reset []) = .next t) := ⟨by decide, ⟨_, rfl⟩, ⟨_, rfl⟩⟩

theorem witness_ResponseWiresShowTheTransaction :
    (fresh 1 (request 0x000 opS) []).ports.reqValid = true ∧ (∀ p ∈ [request 0x000 opS].take 1, p.rst = false) ∧
    (∃ t : State, run 1 (fresh 1 (request 0x000 opS) []) = .next t) ∧ transact 0x000 opS = .result opS :=
  ⟨by decide, by decide, ⟨_, rfl⟩, by decide⟩

theorem witness_StepKeepsThePromisedResponses :
    (fresh 2 (request 0x1C2 opS) [reset]).inReset = false ∧
    (∃ t : State, step (fresh 2 (request 0x1C2 opS) [reset]) = .next t) := ⟨by decide, ⟨_, rfl⟩⟩

theorem witness_RunDeliversEveryPromisedResponse :
    (fresh 2 (request 0x0C3 opS) [request 0x180 opA]).noReset = true ∧ (fresh 0 reset [reset]).lat = 0 := by decide

theorem witness_ResponsesFollowTheRequestsForEveryLatency :
    ∀ q ∈ request 0x0C3 opS :: [PortsIn.idle, request 0x180 opA], q.rst = false := by decide

theorem witness_SharedInstanceAnswersLikeOwnInstances :
    (∀ q ∈ [(1, request 0x0C3 opS), (2, request 0x180 opA)], q.2.rst = false ∧ q.2.reqValid = true) ∧
    (∃ t : State, run (2 + 1 + 0) (fresh 0 .idle [request 0x0C3 opS, request 0x180 opA]) = .next t) ∧
    (∃ u : State, run (1 + 1 + 1) (fresh 1 .idle [request 0x180 opA]) = .next u) := ⟨by decide, ⟨_, rfl⟩, ⟨_, rfl⟩⟩

theorem witness_FaultIsIsolated :
    (∀ q ∈ [request 0x0C2 opS] ++ request 0x1C2 opS :: [request 0x2C2 opS], q.rst = false) ∧
    (request 0x1C2 opS).reqValid = true ∧ (request 0x1C2 opS).legal = false ∧
    (∃ t : State, run (3 + 1 + 0) (fresh 0 .idle [request 0x0C2 opS, request 0x1C2 opS, request 0x2C2 opS]) = .next t) :=
  ⟨by decide, by decide, by decide, ⟨_, rfl⟩⟩

theorem witness_StepKeepsClean :
    (fresh 1 (request 0x0C3 opS) [request 0x37F opA]).clean = true ∧
    (∃ t : State, step (fresh 1 (request 0x0C3 opS) [request 0x37F opA]) = .next t) := ⟨by decide, ⟨_, rfl⟩⟩

theorem witness_CleanRunEndsWell :
    (fresh 3 (request 0x0C3 opS) [request 0x37F opA]).clean = true ∧
    (fresh 3 (request 0x0C3 opS) [request 0x37F opA]).noReset = true := by decide

theorem witness_OnlyResultsDependOnData : ∃ t : State, step (fresh 1 (request 0x0C3 opS) []) = .next t := ⟨_, rfl⟩

theorem witness_ResetDropsEverythingInFlight :
    (fresh 2 reset []).ports.rst = true ∧ 0 < (fresh 2 reset []).lat ∧ (fresh 0 reset []).lat = 0 := by decide

/-- With `LAT = 1`: reset, then a request, whose response is on the channel one cycle later. -/
theorem witness_NoResponseUntilARequestAfterReset :
    (fresh 1 reset [request 0x000 opS]).ports.rst = true ∧ 0 < (fresh 1 reset [request 0x000 opS]).lat ∧
    (∃ t : State, run (1 + 1) (fresh 1 reset [request 0x000 opS]) = .next t ∧ t.rspValid = true) ∧
    (fresh 0 reset []).lat = 0 := ⟨by decide, by decide, ⟨_, rfl, by decide⟩, by decide⟩

theorem witness_AssemblerEncodesOrRejects : (64 : Nat) ∉ [1, 2, 4, 8, 16, 32] ∧ (-1 : Int) < 0 := by decide

theorem witness_FoldingAndPseudoInstructionsAreExact : 63 < 64 := by decide

theorem witness_AssemblerNeverEmitsReservedWords :
    assembleLine ['V', 'S', 'H', 'R', '.', 'n', '3', '2', ' ', '6', '3'] = .word 0x37F := by decide

theorem witness_ChainStopsAtTheFirstReservedWord :
    (∀ w ∈ [0x0C2#10], legalInstr (decode w) = true) ∧ legalInstr (decode 0x1C2#10) = false := by decide

end Sys2Proof.Tests
end

section
/-! PROOFS. Elements against the byte view and the lane view (10_state.md R14). -/

namespace Sys2Proof

/-- Only the single element has no half: from two elements on each lane holds at least one (41_dispatch.md R55). -/
theorem ElemCount.half_ne_zero {n : ElemCount} (h : n ≠ .n1) : n.half ≠ 0 := by
  cases n with
  | n1 => exact absurd rfl h
  | n2 | n4 | n8 | n16 | n32 => decide

/-- The elements of one lane fill its 128 bits, for two elements or more. -/
theorem ElemCount.ebits_mul_half {n : ElemCount} (h : n.half ≠ 0) : n.ebits * n.half = 128 := by
  have := ElemCount.half_mul_size h
  calc n.ebits * n.half = 8 * (n.half * n.size) := by rw [n.ebits_eq]; ring
    _ = 128 := by omega

/-- The `i`-th element of a lane ends inside that lane. -/
theorem ElemCount.ebits_mul_add_ebits_le {n : ElemCount} {i : Nat} (h : i < n.half) :
    n.ebits * i + n.ebits ≤ 128 :=
  calc n.ebits * i + n.ebits = n.ebits * (i + 1) := (Nat.mul_succ _ _).symm
    _ ≤ n.ebits * n.half := Nat.mul_le_mul_left _ h
    _ = 128 := ElemCount.ebits_mul_half (by omega)

namespace Machine

/-- Byte `b` of element `i` is byte `size*i + b` of the value. -/
theorem elemOf_extractByte (n : ElemCount) (a : Value256) (i : Nat) {b : Nat} (hb : b < n.size) :
    (elemOf a i n).extractLsb' (8 * b) 8 = byteOf a (n.size * i + b) := by
  apply BitVec.eq_of_getLsbD_eq
  intro j hj
  have inElem : 8 * b + j < n.ebits := by rw [n.ebits_eq]; omega
  have position : n.ebits * i + (8 * b + j) = 8 * (n.size * i + b) + j := by rw [n.ebits_eq]; ring
  simp only [BitVec.getLsbD_extractLsb', elemOf_getLsbD, byteOf_getLsbD, hj, inElem, position,
    decide_true, Bool.true_and]

/-- An element of the lower half is an element of lane 0. -/
theorem elemOf_eq_extract_lane0 {n : ElemCount} (a : Value256) {i : Nat} (hi : i < n.half) :
    elemOf a i n = (laneOf a .lane0).extractLsb' (n.ebits * i) n.ebits := by
  have fits := ElemCount.ebits_mul_add_ebits_le hi
  apply BitVec.eq_of_getLsbD_eq
  intro j hj
  have inLane : n.ebits * i + j < 128 := by omega
  simp only [BitVec.getLsbD_extractLsb', elemOf_getLsbD, laneOf_lane0_getLsbD, hj, inLane, decide_true, Bool.true_and]

/-- Element `half + k` is element `k` of lane 1: lane 1 begins where element `half` does, at bit 128. -/
theorem elemOf_half_add_eq_extract_lane1 {n : ElemCount} (a : Value256) {k : Nat} (hk : k < n.half) :
    elemOf a (n.half + k) n = (laneOf a .lane1).extractLsb' (n.ebits * k) n.ebits := by
  have fits := ElemCount.ebits_mul_add_ebits_le hk
  have start : n.ebits * (n.half + k) = 128 + n.ebits * k := by
    rw [Nat.mul_add, ElemCount.ebits_mul_half (by omega)]
  apply BitVec.eq_of_getLsbD_eq
  intro j hj
  have inLane : n.ebits * k + j < 128 := by omega
  simp only [BitVec.getLsbD_extractLsb', elemOf_getLsbD, laneOf_lane1_getLsbD, hj, inLane, start, Nat.add_assoc,
    decide_true, Bool.true_and]

/-- Settles O17: the byte clause from where byte `b` of an element stands; the lane clauses from the `half` elements
that fill each lane. -/
theorem elementsAreWholeBytesOfOneLane : Obligations.ElementsAreWholeBytesOfOneLane := by
  intro n a i hi
  refine ⟨fun b hb => elemOf_extractByte n a i hb, fun _ hlow => elemOf_eq_extract_lane0 a hlow, fun hn hhigh => ?_⟩
  have twoHalves := ElemCount.elemN_eq_two_mul_half (ElemCount.half_ne_zero hn)
  obtain ⟨k, rfl⟩ := Nat.exists_eq_add_of_le hhigh
  rw [Nat.add_sub_cancel_left]
  exact elemOf_half_add_eq_extract_lane1 a (by omega)

end Machine
end Sys2Proof
end

section
/-! PROOFS. The pipeline as a belt that carries every response to the response channel (20_memory.md R25, R28; 70_reset_and_hazards.md R106, R107). -/

namespace Sys2Proof.Machine

@[simp] theorem State.hostPlans_ports (s : State) (p : PortsIn) (ps : List PortsIn) : (s.hostPlans p ps).ports = p := rfl
@[simp] theorem State.hostPlans_inputs (s : State) (p : PortsIn) (ps : List PortsIn) :
    (s.hostPlans p ps).inputs = ps := rfl
@[simp] theorem State.hostPlans_pipe (s : State) (p : PortsIn) (ps : List PortsIn) :
    (s.hostPlans p ps).pipe = s.pipe := rfl
@[simp] theorem State.hostPlans_delivered (s : State) (p : PortsIn) (ps : List PortsIn) :
    (s.hostPlans p ps).delivered = s.delivered := rfl
@[simp] theorem State.hostPlans_lat (s : State) (p : PortsIn) (ps : List PortsIn) : (s.hostPlans p ps).lat = s.lat := rfl

@[simp] theorem PortsIn.response?_of_request {p : PortsIn} (h : p.reqValid = true) :
    p.response? = some (transact p.reqCmd p.reqA) := by
  simp [PortsIn.response?, h]

theorem PortsIn.response?_eq_none_iff (p : PortsIn) : p.response? = none ↔ p.reqValid = false := by
  simp [PortsIn.response?]

@[simp] theorem PortsIn.response?_idle : PortsIn.idle.response? = none := rfl

/-- Outside reset the response of the presented request is what enters the pipeline. -/
theorem State.entering_of_not_inReset {s : State} (h : s.inReset = false) : s.entering = s.ports.response? := by
  cases hv : s.ports.reqValid with
  | false => simp [State.entering, State.accepted?_of_no_request hv, PortsIn.response?, hv]
  | true => simp [State.entering, State.accepted?_of_request h hv, hv]

/-- A step outside reset keeps the sequence of promised responses: the response that enters the pipeline is the one
that the presented request asks for. -/
theorem promised_clockEdge {s : State} (h : s.inReset = false) : (s.clockEdge s.entering).promised = s.promised := by
  have toCome : (s.clockEdge s.entering).toCome = s.inputs.filterMap PortsIn.response? :=
    filterMap_response?_nextPorts s
  have presented : s.toCome = s.entering.toList ++ s.inputs.filterMap PortsIn.response? := by
    rw [State.entering_of_not_inReset h, State.toCome]
    cases hp : s.ports.response? <;> simp [hp]
  rw [State.promised, delivered_append_inFlight_clockEdge, toCome, State.promised, presented, List.append_assoc]

/-! ### Runs in which no reset takes effect -/

/-- No planned cycle is a reset that takes effect: none is asserted, or `LAT = 0` (70_reset_and_hazards.md R100). -/
def State.resetFree (s : State) : Prop := s.noReset = true ∨ s.lat = 0

theorem State.noReset_iff (s : State) : s.noReset = true ↔ ∀ p ∈ s.ports :: s.inputs, p.rst = false := by
  simp [State.noReset]

theorem State.resetFree.inReset {s : State} (h : s.resetFree) : s.inReset = false := by
  rcases h with hplan | hlat
  · simp [State.inReset, (s.noReset_iff.mp hplan) s.ports List.mem_cons_self]
  · simp [State.inReset, hlat]

/-- What is on the ports after the clock edge was planned, or presents no reset. -/
theorem State.noReset_clockEdge {s : State} (h : s.noReset = true) (e : Option Response) :
    (s.clockEdge e).noReset = true := by
  rw [State.noReset_iff] at h ⊢
  cases hi : s.inputs with
  | nil => simp [State.nextPorts, hi]
  | cons p ps =>
    have shifted : (s.clockEdge e).ports :: (s.clockEdge e).inputs = s.inputs := by simp [State.nextPorts, hi]
    rw [shifted]
    exact fun q hq => h q (List.mem_cons_of_mem _ hq)

theorem State.resetFree.clockEdge {s : State} (h : s.resetFree) (e : Option Response) : (s.clockEdge e).resetFree :=
  h.imp (State.noReset_clockEdge · e) (fun hlat => (State.clockEdge_lat s e).trans hlat)

/-! ### The belt -/

/-- What the response channel will show, cycle by cycle: the pipeline from its oldest register on, then the responses of
the presented and the planned cycles (70_reset_and_hazards.md R106). -/
def State.belt (s : State) : List (Option Response) :=
  s.pipe.reverse ++ (s.ports :: s.inputs).map PortsIn.response?

theorem State.belt_length (s : State) : s.belt.length = s.inputs.length + 1 + s.lat := by
  simp [State.belt, State.lat]; omega

/-- A step outside reset takes the first place off the belt; past the plan an empty place comes behind. -/
theorem belt_clockEdge {s : State} (h : s.inReset = false) :
    leaving s.entering s.pipe :: (s.clockEdge s.entering).belt = s.belt ++ if s.inputs = [] then [none] else [] := by
  have moved : leaving s.entering s.pipe :: (staying s.entering s.pipe).reverse = s.pipe.reverse ++ [s.entering] := by
    simpa using congrArg List.reverse (staying_append_leaving s.entering s.pipe)
  have planned : (s.nextPorts :: s.inputs.tail).map PortsIn.response? =
      s.inputs.map PortsIn.response? ++ if s.inputs = [] then [none] else [] := by
    cases hi : s.inputs with
    | nil => simp [State.nextPorts, hi, PortsIn.response?]
    | cons p ps => simp [State.nextPorts, hi]
  simp only [State.belt, State.clockEdge_pipe, State.clockEdge_ports, State.clockEdge_inputs, planned]
  rw [← List.cons_append, moved, State.entering_of_not_inReset h]
  simp

/-- From the `k`-th cycle on the response channel shows nothing. -/
def State.doneIn (s : State) (k : Nat) : Prop := ∀ o ∈ s.belt.drop k, o = none

/-- With every place of the plan and the pipeline still ahead, nothing comes behind them. -/
theorem State.doneIn_belt_length (s : State) : s.doneIn (s.inputs.length + 1 + s.lat) := by
  simp [State.doneIn, ← s.belt_length]

theorem State.doneIn.clockEdge {s : State} {k : Nat} (h : s.inReset = false) (hd : s.doneIn (k + 1)) :
    (s.clockEdge s.entering).doneIn k := by
  have shifted : (s.clockEdge s.entering).belt.drop k =
      (s.belt ++ if s.inputs = [] then [none] else []).drop (k + 1) := by
    rw [← belt_clockEdge h, List.drop_succ_cons]
  intro o ho
  rw [shifted, List.drop_append, List.mem_append] at ho
  rcases ho with hbelt | hpad
  · exact hd o hbelt
  · split at hpad
    · exact List.mem_singleton.mp (List.mem_of_mem_drop hpad)
    · simp at hpad

section
variable {s : State} (hd : s.doneIn 0)
include hd

/-- An empty belt: an empty pipeline and no request presented or planned. -/
theorem State.pipe_and_plan_of_doneIn_zero :
    (∀ o ∈ s.pipe, o = none) ∧ ∀ p ∈ s.ports :: s.inputs, p.reqValid = false := by
  refine ⟨fun o ho => hd o ?_, fun p hp => p.response?_eq_none_iff.mp (hd _ ?_)⟩
  · exact List.mem_append_left _ (List.mem_reverse.mpr ho)
  · exact List.mem_append_right _ (List.mem_map_of_mem hp)

theorem State.inFlight_of_doneIn_zero : s.inFlight = [] := by
  obtain ⟨hpipe, -⟩ := State.pipe_and_plan_of_doneIn_zero hd
  simpa [State.inFlight] using hpipe

theorem State.toCome_of_doneIn_zero : s.toCome = [] := by
  obtain ⟨-, hplan⟩ := State.pipe_and_plan_of_doneIn_zero hd
  exact List.filterMap_eq_nil_iff.mpr fun p hp => p.response?_eq_none_iff.mpr (hplan p hp)

theorem State.promised_of_doneIn_zero : s.promised = s.delivered := by
  rw [State.promised, State.inFlight_of_doneIn_zero hd, State.toCome_of_doneIn_zero hd, List.append_nil, List.append_nil]

theorem State.runOver_of_doneIn_zero : s.runOver = true := by
  obtain ⟨hpipe, hplan⟩ := State.pipe_and_plan_of_doneIn_zero hd
  rw [State.runOver, Bool.and_eq_true, List.all_eq_true, List.all_eq_true]
  exact ⟨fun o ho => by rw [hpipe o ho]; rfl, fun p hp => by rw [hplan p hp]; rfl⟩

end

/-! ### Runs to the end -/

/-- `k` cycles without an effective reset, with nothing behind them on the belt, leave the belt empty and keep the
promised responses. -/
theorem run_of_doneIn (k : Nat) {s : State} (hr : s.resetFree) (hd : s.doneIn k) :
    ∃ t : State, run k s = .next t ∧ t.promised = s.promised ∧ t.doneIn 0 := by
  induction k generalizing s with
  | zero => exact ⟨s, run_zero s, rfl, hd⟩
  | succ k ih =>
    obtain ⟨t, hrun, hpromised, hdone⟩ := ih (hr.clockEdge s.entering) (hd.clockEdge hr.inReset)
    exact ⟨t, (run_succ_of_not_inReset k hr.inReset).trans hrun,
      hpromised.trans (promised_clockEdge hr.inReset), hdone⟩

/-- From every state, a run through the plan and `LAT` cycles more delivers all that is promised, unless a reset takes effect
(70_reset_and_hazards.md R107, R108). -/
theorem run_delivers_promised {s : State} (hr : s.resetFree) :
    ∃ t : State, run (s.inputs.length + 1 + s.lat) s = .next t ∧
      t.delivered = s.promised ∧ t.inFlight = [] ∧ t.runOver = true := by
  obtain ⟨t, hrun, hpromised, hdone⟩ := run_of_doneIn _ hr s.doneIn_belt_length
  exact ⟨t, hrun, (State.promised_of_doneIn_zero hdone).symm.trans hpromised,
    State.inFlight_of_doneIn_zero hdone, State.runOver_of_doneIn_zero hdone⟩

/-- Right after reset, what is promised is the responses of the host's plan. -/
theorem promised_hostPlans_resetWith (lat : Nat) (p : PortsIn) (ps : List PortsIn) :
    ((State.resetWith lat).hostPlans p ps).promised = (p :: ps).filterMap PortsIn.response? := by
  simp [State.promised, State.inFlight, State.toCome]

/-- For every latency, a plan without reset is answered request by request, in order (20_memory.md R25). -/
theorem run_resetWith_delivers (lat : Nat) {p : PortsIn} {ps : List PortsIn} (hplan : ∀ q ∈ p :: ps, q.rst = false) :
    ∃ t : State, run (ps.length + 1 + lat) ((State.resetWith lat).hostPlans p ps) = .next t ∧
      t.delivered = (p :: ps).filterMap PortsIn.response? ∧ t.runOver = true := by
  have free : ((State.resetWith lat).hostPlans p ps).resetFree := .inl ((State.noReset_iff _).mpr hplan)
  obtain ⟨t, hrun, hdelivered, -, hover⟩ := run_delivers_promised free
  rw [State.hostPlans_inputs, State.hostPlans_lat, State.resetWith_lat] at hrun
  exact ⟨t, hrun, hdelivered.trans (promised_hostPlans_resetWith lat p ps), hover⟩

/-- Settles O45: at either latency the run delivers the plan's responses, so both deliver the same. -/
theorem responsesFollowTheRequestsForEveryLatency : Obligations.ResponsesFollowTheRequestsForEveryLatency := by
  intro lat lat' p ps hplan
  obtain ⟨t, hrun, hdelivered, hover⟩ := run_resetWith_delivers lat hplan
  obtain ⟨t', hrun', hdelivered', hover'⟩ := run_resetWith_delivers lat' hplan
  exact ⟨t, t', hrun, hrun', hdelivered, hdelivered'.trans hdelivered.symm, hover, hover'⟩

/-! ### Shared shifters -/

/-- At any latency a shifter answers a list of tagged requests, one per cycle, with the transaction of each: the tags
are not seen. -/
theorem delivered_of_tagged_requests {lat : Nat} {tagged : List (Nat × PortsIn)} {t : State}
    (hreq : ∀ q ∈ tagged, q.2.rst = false ∧ q.2.reqValid = true)
    (hrun : run (tagged.length + 1 + lat) ((State.resetWith lat).hostPlans .idle (tagged.map (·.2))) = .next t) :
    t.delivered = tagged.map fun q => transact q.2.reqCmd q.2.reqA := by
  have hplan : ∀ p ∈ PortsIn.idle :: tagged.map (·.2), p.rst = false := by
    simpa [PortsIn.idle] using fun p host hq => (hreq (host, p) hq).1
  obtain ⟨t', hrun', hdelivered, -⟩ := run_resetWith_delivers lat hplan
  rw [List.length_map, hrun] at hrun'
  cases hrun'
  calc t.delivered = tagged.filterMap fun q => q.2.response? := by
        rw [hdelivered, List.filterMap_cons_none PortsIn.response?_idle, List.filterMap_map]; rfl
    _ = tagged.filterMap fun q => some (transact q.2.reqCmd q.2.reqA) :=
        List.filterMap_congr fun q hq => PortsIn.response?_of_request (hreq q hq).2
    _ = tagged.map fun q => transact q.2.reqCmd q.2.reqA := by rw [List.filterMap_eq_map']

/-- Answers that are a function of the requests can be matched to the chosen requests by position. -/
theorem map_snd_filter_zip_map {α β : Type} (l : List α) (f : α → β) (chosen : α → Bool) :
    ((l.zip (l.map f)).filter fun q => chosen q.1).map (·.2) = (l.filter chosen).map f := by
  induction l with
  | nil => rfl
  | cons x xs ih => cases hx : chosen x <;> simp [hx, ih]

/-- Settles O46: each response is the transaction of its own request alone, on the shared shifter and on one's own. -/
theorem sharedInstanceAnswersLikeOwnInstances : Obligations.SharedInstanceAnswersLikeOwnInstances := by
  intro lat lat' shared host t u hreq hshared hown
  have answers := delivered_of_tagged_requests hreq hshared
  have ownAnswers := delivered_of_tagged_requests (fun q hq => hreq q (List.mem_of_mem_filter hq)) hown
  rw [answers, ownAnswers]
  exact ⟨List.length_map _, map_snd_filter_zip_map shared _ (·.1 == host)⟩

end Sys2Proof.Machine
end

section
/-! PROOFS. The command word against its fields, the opcode map and the table of element counts (30_encoding.md R30, R32, R35). -/

namespace Sys2Proof

/-! ### The command word as a number -/

/-- A command word is the number of its three fields (30_encoding.md R30). -/
theorem CmdWord.toNat_eq_fields (cmd : CmdWord) :
    cmd.toNat = (dirField cmd).toNat * 512 + (lgnField cmd).toNat * 64 + (offsField cmd).toNat := by
  have inRange := cmd.isLt
  simp only [dirField, lgnField, offsField, BitVec.extractLsb'_toNat, Nat.shiftRight_eq_div_pow]
  omega

theorem packCmd_toNat (d : BitVec 1) (l : BitVec 3) (o : Amount) :
    (packCmd d l o).toNat = d.toNat * 512 + l.toNat * 64 + o.toNat := by
  simpa using CmdWord.toNat_eq_fields (packCmd d l o)

/-- Settles O4: every word by its own fields; the encoder's words by the fields it packs. -/
theorem commandWordIsItsThreeFields : Obligations.CommandWordIsItsThreeFields :=
  ⟨CmdWord.toNat_eq_fields, fun n offs => ⟨packCmd_toNat 0 n.lgn offs, packCmd_toNat 1 n.lgn offs⟩⟩

/-! ### The table of element counts -/

/-- The element count of a code is the one whose `lgn` is that code (30_encoding.md R32). -/
theorem ElemCount.ofLgn?_eq_some_iff (l : BitVec 3) (n : ElemCount) : ElemCount.ofLgn? l = some n ↔ n.lgn = l := by
  constructor
  · cases n <;> revert l <;> decide
  · rintro rfl
    exact n.ofLgn?_lgn

/-- Settles O5: the six rows evaluate; the formulas are the definitions; the reserved codes are those from 6 on. -/
theorem elementCountTable : Obligations.ElementCountTable :=
  ⟨rfl, fun n => ⟨rfl, rfl, rfl, n.ofLgn?_lgn⟩,
    (ElemCount.ofLgn?_eq_none_iff 6).mpr (by decide), (ElemCount.ofLgn?_eq_none_iff 7).mpr (by decide)⟩

/-! ### The masks of the opcode map -/

/-- The reserved pattern is the codes from 6 on: bits 8 and 7 of the word are the upper two bits of `lgn`
(30_encoding.md R35, R36). -/
theorem CmdWord.and_reservedMask_eq_iff (cmd : CmdWord) :
    cmd &&& 0x180#10 = 0x180#10 ↔ 6 ≤ (lgnField cmd).toNat := by
  have upperBits (l : BitVec 3) : 6 ≤ l.toNat ↔ l.getLsbD 1 = true ∧ l.getLsbD 2 = true := by revert l; decide
  have masked : cmd &&& 0x180#10 = 0x180#10 ↔ cmd.getLsbD 7 = true ∧ cmd.getLsbD 8 = true := by
    constructor
    · intro h
      have bit (i : Nat) := congrArg (BitVec.getLsbD · i) h
      exact ⟨by simpa using bit 7, by simpa using bit 8⟩
    · rintro ⟨h7, h8⟩
      apply BitVec.eq_of_getLsbD_eq
      intro i hi
      interval_cases i <;> simp [h7, h8]
  rw [masked, upperBits]
  simp [lgnField]

theorem dirField_eq_zero_iff (cmd : CmdWord) : dirField cmd = 0 ↔ cmd.getLsbD 9 = false := by
  have onlyBit (b : BitVec 1) : b = 0 ↔ b.getLsbD 0 = false := by revert b; decide
  rw [onlyBit]
  simp [dirField]

/-- Bit 9 alone is the field `dir` (30_encoding.md R35). -/
theorem CmdWord.and_dirMask (cmd : CmdWord) : cmd &&& 0x200#10 = if dirField cmd = 0 then 0x000#10 else 0x200#10 := by
  have masked : cmd &&& 0x200#10 = if cmd.getLsbD 9 then 0x200#10 else 0x000#10 := BitVec.and_twoPow cmd 9
  rw [masked]
  simp only [dirField_eq_zero_iff]
  cases cmd.getLsbD 9 <;> rfl

theorem CmdWord.and_dirMask_eq_zero_iff (cmd : CmdWord) : cmd &&& 0x200#10 = 0x000#10 ↔ dirField cmd = 0 := by
  rw [cmd.and_dirMask]
  exact Ne.ite_eq_left_iff (by decide)

theorem CmdWord.and_dirMask_eq_mask_iff (cmd : CmdWord) : cmd &&& 0x200#10 = 0x200#10 ↔ dirField cmd ≠ 0 := by
  rw [cmd.and_dirMask]
  exact Ne.ite_eq_right_iff (by decide)

theorem Instr.shift_ofField (b : BitVec 1) (n : ElemCount) (offs : Amount) :
    Instr.shift (.ofField b) n offs = if b = 0 then .vshl n offs else .vshr n offs := by
  rw [Dir.ofField]
  split <;> rfl

/-! ### What a word decodes to -/

/-- A reserved `lgn` code is looked at first: the word is ILLEGAL (30_encoding.md R35). -/
theorem decode_of_six_le_lgn {cmd : CmdWord} (h : 6 ≤ (lgnField cmd).toNat) : decode cmd = .illegal cmd := by
  have reserved := (ElemCount.ofLgn?_eq_none_iff (lgnField cmd)).mpr h
  obtain ⟨-, hdecode⟩ | ⟨n, hsome, -⟩ := decode_cases cmd
  · exact hdecode
  · simp [reserved] at hsome

/-- Any other word is a shift by its own three fields (30_encoding.md R35). -/
theorem decode_of_lgn_lt_six {cmd : CmdWord} (h : (lgnField cmd).toNat < 6) :
    ∃ n : ElemCount, n.lgn = lgnField cmd ∧
      decode cmd = if dirField cmd = 0 then .vshl n (offsField cmd) else .vshr n (offsField cmd) := by
  obtain ⟨hnone, -⟩ | ⟨n, hsome, hdecode⟩ := decode_cases cmd
  · have := (ElemCount.ofLgn?_eq_none_iff _).mp hnone
    omega
  · exact ⟨n, (ElemCount.ofLgn?_eq_some_iff _ n).mp hsome, hdecode.trans (Instr.shift_ofField _ n _)⟩

/-- The legal words are the ones with a legal `lgn` code (30_encoding.md R35). -/
theorem Machine.legalInstr_decode (cmd : CmdWord) :
    legalInstr (decode cmd) = decide ((lgnField cmd).toNat < 6) := by
  by_cases h : (lgnField cmd).toNat < 6
  · obtain ⟨n, -, hdecode⟩ := decode_of_lgn_lt_six h
    rw [hdecode]
    split <;> simp [legalInstr, h]
  · simp [decode_of_six_le_lgn (Nat.not_lt.mp h), legalInstr, h]

/-! ### Counting the words -/

/-- The code of the word numbered `k`: sixty-four amounts to a code, eight codes to a direction (30_encoding.md R30). -/
theorem lgnField_ofNat_toNat (k : Nat) : (lgnField (BitVec.ofNat 10 k)).toNat = k / 64 % 8 := by
  simp only [lgnField, BitVec.extractLsb'_toNat, BitVec.toNat_ofNat, Nat.shiftRight_eq_div_pow]
  omega

/-- A property of the block alone, counted over `m` blocks of `b` numbers each. -/
theorem countP_range_mul (p : Nat → Bool) {b : Nat} (hb : 0 < b) (m : Nat) :
    (List.range (b * m)).countP (fun k => p (k / b)) = b * (List.range m).countP p := by
  induction m with
  | zero => simp
  | succ m ih =>
    have block : ∀ k ∈ List.range b, (b * m + k) / b = m := by
      intro k hk
      rw [Nat.mul_add_div hb, Nat.div_eq_of_lt (List.mem_range.mp hk), Nat.add_zero]
    have lastBlock : ((List.range b).map (b * m + ·)).countP (fun k => p (k / b)) = if p m then b else 0 := by
      rw [List.countP_map, List.countP_congr (q := fun _ => p m) fun k hk => by simp [block k hk]]
      cases p m <;> simp
    rw [Nat.mul_succ, List.range_add, List.countP_append, ih, lastBlock, List.range_succ, List.countP_append, Nat.mul_add,
      List.countP_singleton, mul_ite, Nat.mul_one, Nat.mul_zero]

theorem countP_legal_words (p : Bool → Bool) :
    (List.range 1024).countP (fun k => p (Machine.legalInstr (decode (BitVec.ofNat 10 k)))) =
      64 * (List.range 16).countP (fun j => p (decide (j % 8 < 6))) := by
  simp only [Machine.legalInstr_decode, lgnField_ofNat_toNat]
  exact countP_range_mul (fun j => p (decide (j % 8 < 6))) (by decide : 0 < 64) 16

/-- Settles O3: the masks read `lgn` and `dir`, and the decoder tests them in that order; of the 16 pairs of a direction and
a code 12 are legal, with 64 amounts each. -/
theorem decoderFollowsOpcodeMap : Obligations.DecoderFollowsOpcodeMap := by
  refine ⟨fun cmd => ⟨fun hreserved => ?_, fun hlegal => ?_⟩, countP_legal_words id, countP_legal_words not⟩
  · exact decode_of_six_le_lgn (cmd.and_reservedMask_eq_iff.mp hreserved)
  · rw [ne_eq, cmd.and_reservedMask_eq_iff, Nat.not_le] at hlegal
    obtain ⟨n, hlgn, hdecode⟩ := decode_of_lgn_lt_six hlegal
    refine ⟨n, congrArg (fun l : BitVec 3 => 2 ^ l.toNat) hlgn, fun hleft => ?_, fun hright => ?_⟩
    · exact hdecode.trans (if_pos (cmd.and_dirMask_eq_zero_iff.mp hleft))
    · exact hdecode.trans (if_neg (cmd.and_dirMask_eq_mask_iff.mp hright))

end Sys2Proof
end

section
/-! PROOFS. The lanes of a value and the primitive lane operations, as numbers, byte by byte and as settings of the lane
permute (40_lane_primitives.md R40 to R46). -/

namespace Sys2Proof.Machine

/-! ### Lanes and their reassembly -/

/-- Byte `j` of lane 0 is byte `j` of the value (R40). -/
theorem laneByteOf_lane0 (a : Value256) {j : Nat} (hj : j < 16) : laneByteOf (laneOf a .lane0) j = byteOf a j :=
  BitVec.extractLsb'_extractLsb'_of_le (by omega)

/-- Byte `j` of lane 1 is byte `16 + j` of the value: lane 1 begins at bit `128 = 8 * 16` (R40). -/
theorem laneByteOf_lane1 (a : Value256) {j : Nat} (hj : j < 16) :
    laneByteOf (laneOf a .lane1) j = byteOf a (16 + j) := by
  apply BitVec.eq_of_getLsbD_eq
  intro b hb
  have inLane : 8 * j + b < 128 := by omega
  have position : 128 + (8 * j + b) = 8 * (16 + j) + b := by ring
  simp only [laneByteOf_getLsbD, laneOf_lane1_getLsbD, byteOf_getLsbD, inLane, position, decide_true, Bool.true_and]

@[simp] theorem laneOf_join_lane0 (hi lo : Lane) : laneOf (join hi lo) .lane0 = lo :=
  BitVec.extractLsb'_append_eq_right

@[simp] theorem laneOf_join_lane1 (hi lo : Lane) : laneOf (join hi lo) .lane1 = hi :=
  BitVec.extractLsb'_append_eq_left

/-- The two lanes are all there is of a value (R41). -/
@[simp] theorem join_laneOf (a : Value256) : join (laneOf a .lane1) (laneOf a .lane0) = a :=
  BitVec.extractLsb'_append_extractLsb' (w := 128) (len := 128)

theorem join_toNat (hi lo : Lane) : (join hi lo).toNat = hi.toNat * 2 ^ 128 + lo.toNat := by
  rw [join, BitVec.toNat_append, ← Nat.shiftLeft_add_eq_or_of_lt lo.isLt, Nat.shiftLeft_eq]

theorem laneOf_lane0_toNat (a : Value256) : (laneOf a .lane0).toNat = a.toNat % 2 ^ 128 := by
  rw [laneOf, BitVec.extractLsb'_toNat, Nat.shiftRight_zero]

theorem laneOf_lane1_toNat (a : Value256) : (laneOf a .lane1).toNat = a.toNat / 2 ^ 128 := by
  rw [laneOf, BitVec.extractLsb'_toNat, Nat.shiftRight_eq_div_pow]
  exact Nat.mod_eq_of_lt (Nat.div_lt_of_lt_mul a.isLt)

/-- Settles O13: the bytes of each lane, the lanes and the number of a reassembly, and the lanes as numbers. -/
theorem lanesAndJoin : Obligations.LanesAndJoin :=
  ⟨fun a _ hj => ⟨laneByteOf_lane0 a hj, laneByteOf_lane1 a hj⟩,
    fun hi lo => ⟨laneOf_join_lane0 hi lo, laneOf_join_lane1 hi lo, join_toNat hi lo⟩,
    fun a => ⟨join_laneOf a, laneOf_lane0_toNat a, laneOf_lane1_toNat a⟩⟩

/-! ### The byte shifts of one lane -/

theorem bsl_toNat (x : Lane) {k : Nat} (hk : k < 16) : (bsl x k).toNat = x.toNat * 2 ^ (8 * k) % 2 ^ 128 := by
  rw [bsl, if_pos hk, BitVec.toNat_shiftLeft, Nat.shiftLeft_eq]

theorem bsr_toNat (x : Lane) {k : Nat} (hk : k < 16) : (bsr x k).toNat = x.toNat / 2 ^ (8 * k) := by
  rw [bsr, if_pos hk, BitVec.toNat_ushiftRight, Nat.shiftRight_eq_div_pow]

theorem bsl_of_sixteen_le (x : Lane) {k : Nat} (hk : 16 ≤ k) : bsl x k = zero128 := if_neg (Nat.not_lt.mpr hk)

theorem bsr_of_sixteen_le (x : Lane) {k : Nat} (hk : 16 ≤ k) : bsr x k = zero128 := if_neg (Nat.not_lt.mpr hk)

/-- Byte `j` of a left shift comes from `k` bytes below, or is a zero that entered at the bottom (R43). -/
theorem laneByteOf_bsl (x : Lane) (k : Nat) {j : Nat} (hj : j < 16) :
    laneByteOf (bsl x k) j = if k ≤ j then laneByteOf x (j - k) else 0 := by
  apply BitVec.eq_of_getLsbD_eq
  intro b hb
  rw [laneByteOf_getLsbD, bsl_getLsbD]
  split
  case isTrue hkj =>
    have inUse : k < 16 ∧ 8 * j + b < 128 ∧ 8 * k ≤ 8 * j + b := by omega
    have source : 8 * j + b - 8 * k = 8 * (j - k) + b := by omega
    simp only [laneByteOf_getLsbD, inUse, source, decide_true, Bool.true_and]
  case isFalse hkj =>
    have filled : ¬ 8 * k ≤ 8 * j + b := by omega
    simp [filled]

/-- Byte `j` of a right shift comes from `k` bytes above, or is a zero that entered at the top (R44). -/
theorem laneByteOf_bsr (x : Lane) (k j : Nat) :
    laneByteOf (bsr x k) j = if j + k ≤ 15 then laneByteOf x (j + k) else 0 := by
  apply BitVec.eq_of_getLsbD_eq
  intro b hb
  have source : 8 * k + (8 * j + b) = 8 * (j + k) + b := by ring
  rw [laneByteOf_getLsbD, bsr_getLsbD, source]
  split
  case isTrue hjk =>
    have inUse : k < 16 := by omega
    simp only [laneByteOf_getLsbD, inUse, decide_true, Bool.true_and]
  case isFalse hjk =>
    have filled : x.getLsbD (8 * (j + k) + b) = false := BitVec.getLsbD_of_ge _ _ (by omega)
    simp [filled]

/-- Settles O14: each shift as a number below 16 bytes, nothing left from 16 on, and its bytes for every amount. -/
theorem byteShiftsStayInTheirLane : Obligations.ByteShiftsStayInTheirLane :=
  fun x k =>
    ⟨fun hk => ⟨bsl_toNat x hk, bsr_toNat x hk⟩, fun hk => ⟨bsl_of_sixteen_le x hk, bsr_of_sixteen_le x hk⟩,
      fun j hj => ⟨laneByteOf_bsl x k hj, laneByteOf_bsr x k j⟩⟩

/-! ### The cross-lane window -/

theorem win_of_lt_thirtyTwo (hi lo : Lane) {k : Nat} (hk : k < 32) :
    win hi lo k = (join hi lo >>> (8 * k)).extractLsb' 0 128 := if_pos hk

theorem win_of_thirtyTwo_le (hi lo : Lane) {k : Nat} (hk : 32 ≤ k) : win hi lo k = zero128 :=
  if_neg (Nat.not_lt.mpr hk)

/-- The window is the slice of the concatenation that begins at bit `8 * k`. -/
theorem win_eq_extract (hi lo : Lane) {k : Nat} (hk : k < 32) :
    win hi lo k = (join hi lo).extractLsb' (8 * k) 128 := by
  apply BitVec.eq_of_getLsbD_eq
  intro b _
  simp only [win_getLsbD, BitVec.getLsbD_extractLsb', hk, decide_true, Bool.true_and]

/-- Byte `j` of the window is byte `j + k` of the concatenation, or a zero from beyond it (R45). -/
theorem laneByteOf_win (hi lo : Lane) (k : Nat) {j : Nat} (hj : j < 16) :
    laneByteOf (win hi lo k) j = if j + k ≤ 31 then byteOf (join hi lo) (j + k) else 0 := by
  apply BitVec.eq_of_getLsbD_eq
  intro b hb
  have source : 8 * k + (8 * j + b) = 8 * (j + k) + b := by ring
  rw [laneByteOf_getLsbD, win_getLsbD, source]
  split
  case isTrue hjk =>
    have inUse : k < 32 ∧ 8 * j + b < 128 := by omega
    simp only [byteOf_getLsbD, inUse, decide_true, Bool.true_and]
  case isFalse hjk =>
    have beyond : (join hi lo).getLsbD (8 * (j + k) + b) = false := BitVec.getLsbD_of_ge _ _ (by omega)
    simp only [beyond, Bool.and_false, BitVec.ofNat_eq_ofNat, BitVec.getLsbD_zero]

/-- At offset 0 the window lies on lane 0 of the concatenation. -/
@[simp] theorem win_zero (hi lo : Lane) : win hi lo 0 = lo :=
  (win_eq_extract hi lo (by decide)).trans (laneOf_join_lane0 hi lo)

/-- At offset 16 the window lies on lane 1 of the concatenation. -/
@[simp] theorem win_sixteen (hi lo : Lane) : win hi lo 16 = hi :=
  (win_eq_extract hi lo (by decide)).trans (laneOf_join_lane1 hi lo)

/-- Settles O15: the window below 32 bytes, nothing from 32 on, its bytes for every offset, and the two whole lanes. -/
theorem windowReadsTheConcatenation : Obligations.WindowReadsTheConcatenation :=
  fun hi lo k =>
    ⟨win_of_lt_thirtyTwo hi lo, win_of_thirtyTwo_le hi lo, fun _ hj => laneByteOf_win hi lo k hj,
      win_zero hi lo, win_sixteen hi lo⟩

/-! ### The lane permute -/

/-- The setting that puts each lane back in its own place (R46). -/
@[simp] theorem laneSel_l1_l0 (a : Value256) : laneSel a .l1 .l0 = a := join_laneOf a

/-- The left half-width case moves lane 0 up (42_shift_left.md R62). -/
theorem shlHalf_eq_laneSel (a : Value256) : shlHalf a = laneSel a .l0 .z := rfl

/-- The right half-width case moves lane 1 down (43_shift_right.md R72). -/
theorem shrHalf_eq_laneSel (a : Value256) : shrHalf a = laneSel a .z .l1 := rfl

/-- Settles O16: what the permute joins and what a selector picks are their definitions; that the identity setting
changes nothing is that a value is its two lanes. -/
theorem lanePermuteSettings : Obligations.LanePermuteSettings :=
  fun a => ⟨fun _ _ => rfl, rfl, rfl, rfl, laneSel_l1_l0 a, shlHalf_eq_laneSel a, shrHalf_eq_laneSel a⟩

end Sys2Proof.Machine
end

section
/-! PROOFS. The Shift Dispatcher: the range of each case, and the byte amounts of SUB and SUPER
(41_dispatch.md R51, R53). -/

namespace Sys2Proof

theorem ElemCount.size_pos (n : ElemCount) : 0 < n.size :=
  Nat.pos_of_mul_pos_right (n.size_mul_elemN ▸ (by decide : 0 < 32))

/-- At least one element and fewer than a lane holds: as bytes, at least one element's, and at least one element's
short of the lane's 16. -/
theorem ElemCount.mul_size_bounds {n : ElemCount} {j : Nat} (hpos : 0 < j) (hlt : j < n.half) :
    n.size ≤ j * n.size ∧ j * n.size ≤ 16 - n.size ∧ 1 ≤ j * n.size ∧ j * n.size ≤ 15 := by
  have sizePos := n.size_pos
  have atLeastOne : n.size ≤ j * n.size := Nat.le_mul_of_pos_left _ hpos
  have oneMoreFits : j * n.size + n.size ≤ 16 :=
    calc j * n.size + n.size = (j + 1) * n.size := (Nat.succ_mul _ _).symm
      _ ≤ n.half * n.size := Nat.mul_le_mul_right _ hlt
      _ = 16 := ElemCount.half_mul_size (by omega)
  omega

/-- The elements that complete `j` of them to a lane complete their bytes to 16. -/
theorem ElemCount.half_sub_mul_size {n : ElemCount} (h : n.half ≠ 0) (j : Nat) :
    (n.half - j) * n.size = 16 - j * n.size := by
  rw [Nat.sub_mul, ElemCount.half_mul_size h]

/-- Strictly between 0 and `half` there is an amount for four elements or more only (41_dispatch.md R52). -/
theorem ElemCount.four_le_elemN {n : ElemCount} (h : 1 < n.half) : 4 ≤ n.elemN := by
  have twoHalves := ElemCount.elemN_eq_two_mul_half (n := n) (by omega)
  omega

/-- What an amount below `elem_n` has beyond one lane's elements is fewer than a lane's elements. -/
theorem ElemCount.sub_half_lt_half {n : ElemCount} {o : Nat} (low : n.half < o) (high : o < n.elemN) :
    o - n.half < n.half := by
  have floor : n.half = n.elemN / 2 := rfl
  have twoHalves := ElemCount.elemN_eq_two_mul_half (n := n) (by omega)
  omega

namespace Machine

/-- The dispatcher's answers against the ranges of the amount: the ranges exclude each other, so that each answer is
given on its own range and nowhere else (41_dispatch.md R51), with its byte amounts (R53). -/
theorem shiftDispatch_eq_iff (n : ElemCount) (offs : Amount) :
    (shiftDispatch n offs = .zero ↔ offs.toNat = 0) ∧
    (shiftDispatch n offs = .half ↔ offs.toNat ≠ 0 ∧ offs.toNat = n.half) ∧
    (shiftDispatch n offs = .full ↔ n.elemN ≤ offs.toNat) ∧
    (∀ k w, shiftDispatch n offs = .sub k w ↔
      (0 < offs.toNat ∧ offs.toNat < n.half) ∧ k = offs.toNat * n.size ∧ w = (n.half - offs.toNat) * n.size) ∧
    (∀ k, shiftDispatch n offs = .super k ↔
      (n.half < offs.toNat ∧ offs.toNat < n.elemN) ∧ k = (offs.toNat - n.half) * n.size) := by
  have pos := n.elemN_pos
  have order := n.half_lt_elemN
  obtain ⟨range, answer⟩ | ⟨nonzero, range, answer⟩ | ⟨range, answer⟩ | ⟨low, high, answer⟩ | ⟨low, high, answer⟩ :=
    shiftDispatch_cases n offs
  all_goals
    simp only [answer, reduceCtorEq, true_iff, false_iff, ShiftCase.sub.injEq, ShiftCase.super.injEq]
    refine ⟨?_, ?_, ?_, fun k w => ?_, fun k => ?_⟩ <;> omega

/-- Settles O18: the ranges of the five answers, with the byte amounts left open. -/
theorem dispatcherSelectsItsCase : Obligations.DispatcherSelectsItsCase := by
  intro n offs
  obtain ⟨zero, half, full, sub, super⟩ := shiftDispatch_eq_iff n offs
  exact ⟨zero, half, full, by simp [sub], by simp [super]⟩

/-- Settles O19: `k` and `w` of SUB and `k` of SUPER are the bytes of `offs`, `half - offs` and `offs - half` elements,
each at least one and fewer than `half`. -/
theorem byteAmountsAreOneToFifteen : Obligations.ByteAmountsAreOneToFifteen := by
  intro n offs
  obtain ⟨-, -, -, sub, super⟩ := shiftDispatch_eq_iff n offs
  constructor
  · intro k w hcase
    obtain ⟨⟨low, high⟩, rfl, rfl⟩ := (sub k w).mp hcase
    obtain ⟨kMin, kMax, kPos, kLt⟩ := ElemCount.mul_size_bounds low high
    obtain ⟨wMin, wMax, wPos, wLt⟩ := ElemCount.mul_size_bounds (Nat.sub_pos_of_lt high) (Nat.sub_lt (by omega) low)
    exact ⟨rfl, rfl, ElemCount.half_sub_mul_size (by omega) _, kMin, kMax, kPos, kLt, wMin, wMax, wPos, wLt,
      Nat.dvd_mul_left _ _, Nat.dvd_mul_left _ _, ElemCount.four_le_elemN (by omega)⟩
  · intro k hcase
    obtain ⟨⟨low, high⟩, rfl⟩ := (super k).mp hcase
    have inLane := ElemCount.sub_half_lt_half low high
    obtain ⟨kMin, kMax, kPos, kLt⟩ := ElemCount.mul_size_bounds (Nat.sub_pos_of_lt low) inLane
    exact ⟨rfl, kMin, kMax, kPos, kLt, Nat.dvd_mul_left _ _, ElemCount.four_le_elemN (by omega)⟩

end Machine
end Sys2Proof
end

section
/-! PROOFS. VSHL and its five case handlers, by the primitives and byte by byte (42_shift_left.md R60 to R65). -/

namespace Sys2Proof.Machine

/-! ### The bytes of a reassembled value -/

/-- The low 16 bytes of a reassembly are those of its low lane (40_lane_primitives.md R41). -/
theorem byteOf_join_low (hi lo : Lane) {j : Nat} (hj : j < 16) : byteOf (join hi lo) j = laneByteOf lo j := by
  rw [← laneByteOf_lane0 _ hj, laneOf_join_lane0]

/-- The high 16 bytes of a reassembly are those of its high lane (40_lane_primitives.md R41). -/
theorem byteOf_join_high (hi lo : Lane) {j : Nat} (hj : j < 16) :
    byteOf (join hi lo) (16 + j) = laneByteOf hi j := by
  rw [← laneByteOf_lane1 _ hj, laneOf_join_lane1]

@[simp] theorem laneByteOf_zero128 (j : Nat) : laneByteOf zero128 j = 0 := BitVec.extractLsb'_zero

/-- A left byte shift of lane 0, in bytes of the value it is a lane of. -/
theorem laneByteOf_bsl_lane0 (a : Value256) (k : Nat) {j : Nat} (hj : j < 16) :
    laneByteOf (bsl (laneOf a .lane0) k) j = if k ≤ j then byteOf a (j - k) else 0 := by
  rw [laneByteOf_bsl _ k hj, laneByteOf_lane0 a (Nat.lt_of_le_of_lt (Nat.sub_le j k) hj)]

/-! ### The handlers byte by byte -/

/-- The low lane of SUB is lane 0 moved up within itself (R64). -/
theorem byteOf_shlSub_low (k w : Nat) (a : Value256) {j : Nat} (hj : j < 16) :
    byteOf (shlSub k w a) j = if k ≤ j then byteOf a (j - k) else 0 :=
  (byteOf_join_low _ _ hj).trans (laneByteOf_bsl_lane0 a k hj)

/-- The high lane of SUB is a window on the operand itself, which begins `k` bytes below lane 1: it takes in the
spillover of lane 0 and loses nothing to a fill (R64). -/
theorem byteOf_shlSub_high {k w : Nat} (hkw : k + w = 16) (a : Value256) {j : Nat} (hj : j < 16) :
    byteOf (shlSub k w a) (16 + j) = byteOf a (16 + j - k) := by
  have inside : j + w ≤ 31 := by omega
  have source : j + w = 16 + j - k := by omega
  rw [shlSub, byteOf_join_high _ _ hj, laneByteOf_win _ _ w hj, if_pos inside, join_laneOf, source]

/-- The low lane of SUPER is zero (R65). -/
theorem byteOf_shlSuper_low (k : Nat) (a : Value256) {j : Nat} (hj : j < 16) : byteOf (shlSuper k a) j = 0 :=
  (byteOf_join_low _ _ hj).trans (laneByteOf_zero128 j)

/-- The high lane of SUPER is lane 0 moved up (R65). -/
theorem byteOf_shlSuper_high (k : Nat) (a : Value256) {j : Nat} (hj : j < 16) :
    byteOf (shlSuper k a) (16 + j) = if k ≤ j then byteOf a (j - k) else 0 :=
  (byteOf_join_high _ _ hj).trans (laneByteOf_bsl_lane0 a k hj)

/-! ### The handler of each range of the amount -/

section
variable {n : ElemCount} {offs : Amount} (a : Value256)

theorem shiftLeft_of_eq_zero (h : offs.toNat = 0) : shiftLeft n offs a = a := by
  obtain ⟨zero, -⟩ := shiftDispatch_eq_iff n offs
  rw [shiftLeft, zero.mpr h, shlZero]

theorem shiftLeft_of_eq_half (h0 : offs.toNat ≠ 0) (h : offs.toNat = n.half) : shiftLeft n offs a = shlHalf a := by
  obtain ⟨-, half, -⟩ := shiftDispatch_eq_iff n offs
  rw [shiftLeft, half.mpr ⟨h0, h⟩]

theorem shiftLeft_of_elemN_le (h : n.elemN ≤ offs.toNat) : shiftLeft n offs a = zero256 := by
  obtain ⟨-, -, full, -⟩ := shiftDispatch_eq_iff n offs
  rw [shiftLeft, full.mpr h, shlFull]

theorem shiftLeft_of_lt_half (low : 0 < offs.toNat) (high : offs.toNat < n.half) :
    shiftLeft n offs a = shlSub (offs.toNat * n.size) ((n.half - offs.toNat) * n.size) a := by
  obtain ⟨-, -, -, sub, -⟩ := shiftDispatch_eq_iff n offs
  rw [shiftLeft, (sub _ _).mpr ⟨⟨low, high⟩, rfl, rfl⟩]

theorem shiftLeft_of_half_lt (low : n.half < offs.toNat) (high : offs.toNat < n.elemN) :
    shiftLeft n offs a = shlSuper ((offs.toNat - n.half) * n.size) a := by
  obtain ⟨-, -, -, -, super⟩ := shiftDispatch_eq_iff n offs
  rw [shiftLeft, (super _).mpr ⟨⟨low, high⟩, rfl⟩]

end

/-- VSHL completes in every state, so that its response is known once the shifted operand is (R60). -/
theorem exec_vshl_of_shiftLeft_eq {n : ElemCount} {offs : Amount} {s : State} {r : Value256}
    (h : shiftLeft n offs s.ports.reqA = r) : exec (.vshl n offs) s = .next (s.respond (.result r)) := by
  rw [exec_eq_respond, responseOf, h]

/-- Settles O21: the three handlers that need no byte amount, each on its range. -/
theorem vshlZeroHalfAndFullShift : Obligations.VshlZeroHalfAndFullShift :=
  fun _ _ s =>
    ⟨fun h => exec_vshl_of_shiftLeft_eq (shiftLeft_of_eq_zero s.ports.reqA h),
      fun h0 h => exec_vshl_of_shiftLeft_eq (shiftLeft_of_eq_half s.ports.reqA h0 h),
      fun h => exec_vshl_of_shiftLeft_eq (shiftLeft_of_elemN_le s.ports.reqA h)⟩

/-- Settles O22: the window amount completes `k` to 16 bytes, so that the high lane reads the operand `k` bytes below. -/
theorem vshlSubHalfShift : Obligations.VshlSubHalfShift := by
  intro n offs s low high
  have windowAmount := ElemCount.half_sub_mul_size (n := n) (by omega) offs.toNat
  obtain ⟨-, -, -, kLt⟩ := ElemCount.mul_size_bounds low high
  exact ⟨_, exec_vshl_of_shiftLeft_eq (shiftLeft_of_lt_half s.ports.reqA low high), rfl, fun j hj =>
    ⟨byteOf_shlSub_low _ _ s.ports.reqA hj, byteOf_shlSub_high (by omega) s.ports.reqA hj⟩⟩

/-- Settles O23: nothing of lane 1 survives, and lane 0 arrives above a zero lane. -/
theorem vshlSuperHalfShift : Obligations.VshlSuperHalfShift :=
  fun _ _ s low high =>
    ⟨_, exec_vshl_of_shiftLeft_eq (shiftLeft_of_half_lt s.ports.reqA low high), rfl, fun _ hj =>
      ⟨byteOf_shlSuper_low _ s.ports.reqA hj, byteOf_shlSuper_high _ s.ports.reqA hj⟩⟩

end Sys2Proof.Machine
end

section
/-! PROOFS. VSHR and its five case handlers, by the primitives and byte by byte (43_shift_right.md R70 to R75). -/

namespace Sys2Proof.Machine

/-! ### The handlers byte by byte -/

/-- A right byte shift of lane 1, in bytes of the value it is a lane of: what would come from above the value is the
zero that enters at the top. -/
theorem laneByteOf_bsr_lane1 (a : Value256) (k j : Nat) :
    laneByteOf (bsr (laneOf a .lane1) k) j = if j + k ≤ 15 then byteOf a (16 + j + k) else 0 := by
  rw [laneByteOf_bsr]
  split
  case isTrue inLane => rw [laneByteOf_lane1 a (Nat.lt_succ_of_le inLane), Nat.add_assoc]
  case isFalse => rfl

/-- The low lane of SUB is a window on the operand itself, which begins `k` bytes above its bottom: as long as it
begins in lane 0 it ends within the operand and takes in no fill (R74). -/
theorem byteOf_shrSub_low {k : Nat} (hk : k ≤ 16) (a : Value256) {j : Nat} (hj : j < 16) :
    byteOf (shrSub k a) j = byteOf a (j + k) := by
  have inside : j + k ≤ 31 := by omega
  rw [shrSub, byteOf_join_low _ _ hj, laneByteOf_win _ _ k hj, if_pos inside, join_laneOf]

/-- The high lane of SUB is lane 1 moved down within itself (R74). -/
theorem byteOf_shrSub_high (k : Nat) (a : Value256) {j : Nat} (hj : j < 16) :
    byteOf (shrSub k a) (16 + j) = if j + k ≤ 15 then byteOf a (16 + j + k) else 0 :=
  (byteOf_join_high _ _ hj).trans (laneByteOf_bsr_lane1 a k j)

/-- The low lane of SUPER is lane 1 moved down (R75). -/
theorem byteOf_shrSuper_low (k : Nat) (a : Value256) {j : Nat} (hj : j < 16) :
    byteOf (shrSuper k a) j = if j + k ≤ 15 then byteOf a (16 + j + k) else 0 :=
  (byteOf_join_low _ _ hj).trans (laneByteOf_bsr_lane1 a k j)

/-- The high lane of SUPER is zero (R75). -/
theorem byteOf_shrSuper_high (k : Nat) (a : Value256) {j : Nat} (hj : j < 16) :
    byteOf (shrSuper k a) (16 + j) = 0 :=
  (byteOf_join_high _ _ hj).trans (laneByteOf_zero128 j)

/-! ### The handler of each range of the amount -/

section
variable {n : ElemCount} {offs : Amount} (a : Value256)

theorem shiftRight_of_eq_zero (h : offs.toNat = 0) : shiftRight n offs a = a := by
  obtain ⟨zero, -⟩ := shiftDispatch_eq_iff n offs
  rw [shiftRight, zero.mpr h, shrZero]

theorem shiftRight_of_eq_half (h0 : offs.toNat ≠ 0) (h : offs.toNat = n.half) : shiftRight n offs a = shrHalf a := by
  obtain ⟨-, half, -⟩ := shiftDispatch_eq_iff n offs
  rw [shiftRight, half.mpr ⟨h0, h⟩]

theorem shiftRight_of_elemN_le (h : n.elemN ≤ offs.toNat) : shiftRight n offs a = zero256 := by
  obtain ⟨-, -, full, -⟩ := shiftDispatch_eq_iff n offs
  rw [shiftRight, full.mpr h, shrFull]

/-- SUB to the right uses the dispatcher's byte amount `k` for both lanes, and its window amount not at all (R74). -/
theorem shiftRight_of_lt_half (low : 0 < offs.toNat) (high : offs.toNat < n.half) :
    shiftRight n offs a = shrSub (offs.toNat * n.size) a := by
  obtain ⟨-, -, -, sub, -⟩ := shiftDispatch_eq_iff n offs
  rw [shiftRight, (sub _ _).mpr ⟨⟨low, high⟩, rfl, rfl⟩]

theorem shiftRight_of_half_lt (low : n.half < offs.toNat) (high : offs.toNat < n.elemN) :
    shiftRight n offs a = shrSuper ((offs.toNat - n.half) * n.size) a := by
  obtain ⟨-, -, -, -, super⟩ := shiftDispatch_eq_iff n offs
  rw [shiftRight, (super _).mpr ⟨⟨low, high⟩, rfl⟩]

end

/-- VSHR completes in every state, so that its response is known once the shifted operand is (R70). -/
theorem exec_vshr_of_shiftRight_eq {n : ElemCount} {offs : Amount} {s : State} {r : Value256}
    (h : shiftRight n offs s.ports.reqA = r) : exec (.vshr n offs) s = .next (s.respond (.result r)) := by
  rw [exec_eq_respond, responseOf, h]

/-- Settles O24: the three handlers that need no byte amount, each on its range. -/
theorem vshrZeroHalfAndFullShift : Obligations.VshrZeroHalfAndFullShift :=
  fun _ _ s =>
    ⟨fun h => exec_vshr_of_shiftRight_eq (shiftRight_of_eq_zero s.ports.reqA h),
      fun h0 h => exec_vshr_of_shiftRight_eq (shiftRight_of_eq_half s.ports.reqA h0 h),
      fun h => exec_vshr_of_shiftRight_eq (shiftRight_of_elemN_le s.ports.reqA h)⟩

/-- Settles O25: fewer than `half` elements are fewer than 16 bytes, so that the window begins in lane 0 and the low
lane reads the operand `k` bytes above; only the high lane meets the fill. -/
theorem vshrSubHalfShift : Obligations.VshrSubHalfShift := by
  intro n offs s low high
  obtain ⟨-, -, -, kLt⟩ := ElemCount.mul_size_bounds low high
  exact ⟨_, exec_vshr_of_shiftRight_eq (shiftRight_of_lt_half s.ports.reqA low high), rfl, fun j hj =>
    ⟨byteOf_shrSub_low (by omega) s.ports.reqA hj, byteOf_shrSub_high _ s.ports.reqA hj⟩⟩

/-- Settles O26: nothing of lane 0 survives, and lane 1 arrives below a zero lane. -/
theorem vshrSuperHalfShift : Obligations.VshrSuperHalfShift :=
  fun _ _ s low high =>
    ⟨_, exec_vshr_of_shiftRight_eq (shiftRight_of_half_lt s.ports.reqA low high), rfl, fun _ hj =>
      ⟨byteOf_shrSuper_low _ s.ports.reqA hj, byteOf_shrSuper_high _ s.ports.reqA hj⟩⟩

end Sys2Proof.Machine
end

section
/-! PROOFS. The laws of the two operations: identity, over-width and half-width, and the element law of the left shift by
its closed form (44_laws.md R80, R81, R82, R84). -/

namespace Sys2Proof

/-- The elements fill the 256 bits of the register (10_state.md R14). -/
theorem ElemCount.ebits_mul_elemN (n : ElemCount) : n.ebits * n.elemN = 256 := by
  rw [n.ebits_eq, Nat.mul_assoc, n.size_mul_elemN]

theorem ElemCount.ebits_pos (n : ElemCount) : 0 < n.ebits := Nat.mul_pos (by decide) n.size_pos

/-- No element count exceeds the 32 bytes of the register (30_encoding.md R32). -/
theorem ElemCount.elemN_le_thirtyTwo (n : ElemCount) : n.elemN ≤ 32 :=
  Nat.le_of_dvd (by decide) (n.size_mul_elemN ▸ Nat.dvd_mul_left _ _)

namespace Machine

/-! ### Elements of a value -/

/-- Bit `i` of a value is bit `i % ebits` of its element `i / ebits`, so that values with equal elements are equal. -/
theorem eq_of_elemOf_eq (n : ElemCount) {a b : Value256} (h : ∀ i < n.elemN, elemOf a i n = elemOf b i n) : a = b := by
  apply BitVec.eq_of_getLsbD_eq
  intro i hi
  have element : i / n.ebits < n.elemN := Nat.div_lt_of_lt_mul (n.ebits_mul_elemN.symm ▸ hi)
  have bit := congrArg (·.getLsbD (i % n.ebits)) (h _ element)
  simpa only [elemOf_getLsbD, Nat.mod_lt _ n.ebits_pos, Nat.div_add_mod, decide_true, Bool.true_and] using bit

/-- Values whose bytes agree in each lane are equal: the bytes are the elements of the count that has 32 of them. -/
theorem eq_of_lane_bytes_eq {a b : Value256} (low : ∀ j < 16, byteOf a j = byteOf b j)
    (high : ∀ j < 16, byteOf a (16 + j) = byteOf b (16 + j)) : a = b := by
  refine eq_of_elemOf_eq .n32 fun i (hi : i < 32) => ?_
  rcases Nat.lt_or_ge i 16 with hlow | hhigh
  · exact low i hlow
  · obtain ⟨j, rfl⟩ := Nat.exists_eq_add_of_le hhigh
    exact high j (by omega)

/-- Moving a value up by the bits of `o` elements moves its elements up by `o` places: bit `j` of element `i` comes from
`o` elements below exactly when there are that many. -/
theorem elemOf_shiftLeft_bits (n : ElemCount) (a : Value256) (o : Nat) {i : Nat} (hi : i < n.elemN) :
    elemOf (a <<< (n.ebits * o)) i n = if o ≤ i then elemOf a (i - o) n else 0 := by
  apply BitVec.eq_of_getLsbD_eq
  intro j hj
  have belowNext : n.ebits * i + j < n.ebits * (i + 1) := by rw [Nat.mul_succ]; omega
  have inside : n.ebits * i + j < 256 :=
    calc n.ebits * i + j < n.ebits * (i + 1) := belowNext
      _ ≤ n.ebits * n.elemN := Nat.mul_le_mul_left _ hi
      _ = 256 := n.ebits_mul_elemN
  rw [elemOf_getLsbD, BitVec.getLsbD_shiftLeft]
  split
  case isTrue hoi =>
    obtain ⟨d, rfl⟩ := Nat.exists_eq_add_of_le hoi
    have source : n.ebits * (o + d) + j - n.ebits * o = n.ebits * (o + d - o) + j := by
      rw [Nat.add_sub_cancel_left, Nat.mul_add]; omega
    have notFilled : ¬ n.ebits * (o + d) + j < n.ebits * o := by rw [Nat.mul_add]; omega
    simp only [elemOf_getLsbD, hj, inside, notFilled, source, decide_true, decide_false, Bool.not_false, Bool.true_and]
  case isFalse hoi =>
    have filled : n.ebits * i + j < n.ebits * o :=
      belowNext.trans_le (Nat.mul_le_mul_left _ (Nat.lt_of_not_le hoi))
    simp [filled]

/-- Moving a value up by `k` bytes moves its bytes, the elements of `n32`, up by `k` places. -/
theorem byteOf_shiftLeft_bytes (a : Value256) (k : Nat) {j : Nat} (hj : j < 32) :
    byteOf (a <<< (8 * k)) j = if k ≤ j then byteOf a (j - k) else 0 :=
  elemOf_shiftLeft_bits .n32 a k hj

/-! ### The closed form of the left shift (42_shift_left.md R66) -/

@[simp] theorem bsl_zero (x : Lane) : bsl x 0 = x := BitVec.shiftLeft_zero x

/-- SUB is a shift of the whole value by its `k` bytes. -/
theorem shlSub_eq_shiftLeft {k w : Nat} (hkw : k + w = 16) (a : Value256) : shlSub k w a = a <<< (8 * k) := by
  refine eq_of_lane_bytes_eq (fun j hj => ?_) (fun j hj => ?_)
  · rw [byteOf_shlSub_low k w a hj, byteOf_shiftLeft_bytes a k (by omega)]
  · rw [byteOf_shlSub_high hkw a hj, byteOf_shiftLeft_bytes a k (by omega), if_pos (by omega)]

/-- SUPER is a shift of the whole value by one lane and its `k` bytes. -/
theorem shlSuper_eq_shiftLeft (k : Nat) (a : Value256) : shlSuper k a = a <<< (8 * (16 + k)) := by
  refine eq_of_lane_bytes_eq (fun j hj => ?_) (fun j hj => ?_)
  · rw [byteOf_shlSuper_low k a hj, byteOf_shiftLeft_bytes a _ (by omega), if_neg (by omega)]
  · rw [byteOf_shlSuper_high k a hj, byteOf_shiftLeft_bytes a _ (by omega), Nat.add_sub_add_left]
    simp only [Nat.add_le_add_iff_left]

/-- HALF is the shift by one lane: SUPER with no bytes beyond it. -/
theorem shlHalf_eq_shiftLeft (a : Value256) : shlHalf a = a <<< (8 * 16) := by
  have noBytes : shlSuper 0 a = shlHalf a := by rw [shlSuper, bsl_zero, shlHalf]
  exact noBytes.symm.trans (shlSuper_eq_shiftLeft 0 a)

/-- VSHL by `o` elements is a shift of the whole value by their bits, case by case; from `elem_n` elements on, those are
all the bits there are. -/
theorem shiftLeft_eq_shiftLeft_bits (n : ElemCount) (offs : Amount) (a : Value256) :
    shiftLeft n offs a = a <<< (n.ebits * offs.toNat) := by
  have bits : n.ebits * offs.toNat = 8 * (offs.toNat * n.size) := by rw [n.ebits_eq]; ring
  obtain ⟨zero, -⟩ | ⟨nonzero, half, -⟩ | ⟨full, -⟩ | ⟨low, high, -⟩ | ⟨low, high, -⟩ := shiftDispatch_cases n offs
  · rw [shiftLeft_of_eq_zero a zero, zero, Nat.mul_zero, BitVec.shiftLeft_zero]
  · rw [shiftLeft_of_eq_half a nonzero half, shlHalf_eq_shiftLeft, bits, half, ElemCount.half_mul_size (half ▸ nonzero)]
  · have allBits : 256 ≤ n.ebits * offs.toNat := n.ebits_mul_elemN ▸ Nat.mul_le_mul_left _ full
    rw [shiftLeft_of_elemN_le a full, BitVec.shiftLeft_eq_zero allBits]
  · obtain ⟨-, -, -, kLt⟩ := ElemCount.mul_size_bounds low high
    have windowAmount := ElemCount.half_sub_mul_size (n := n) (by omega) offs.toNat
    rw [shiftLeft_of_lt_half a low high, shlSub_eq_shiftLeft (by omega), bits]
  · have inLane := ElemCount.sub_half_lt_half low high
    have bytes : offs.toNat * n.size = 16 + (offs.toNat - n.half) * n.size := by
      rw [← ElemCount.half_mul_size (n := n) (by omega), ← Nat.add_mul, Nat.add_sub_cancel' low.le]
    rw [shiftLeft_of_half_lt a low high, shlSuper_eq_shiftLeft, bits, bytes]

/-! ### The laws -/

/-- Settles O31: the closed form moves the elements of the whole value. -/
theorem elementLawLeft : Obligations.ElementLawLeft := by
  intro n offs a i hi
  rw [shiftLeft_eq_shiftLeft_bits, elemOf_shiftLeft_bits n a offs.toNat hi]

/-- Settles O29: amount 0 is the ZERO case of both directions. -/
theorem shiftByZeroIsIdentity : Obligations.ShiftByZeroIsIdentity :=
  fun _ a => ⟨shiftLeft_of_eq_zero a rfl, shiftRight_of_eq_zero a rfl⟩

/-- Folding keeps an over-width amount over-width: no element count is above 63 (30_encoding.md R39). -/
theorem elemN_le_foldAmount {n : ElemCount} {o : Nat} (h : n.elemN ≤ o) : n.elemN ≤ (foldAmount o).toNat := by
  have bound := n.elemN_le_thirtyTwo
  rw [foldAmount_toNat]
  omega

/-- Settles O30: amounts from `elem_n` on are the FULL case of both directions, and folding leaves them there. -/
theorem overWidthShiftIsZero : Obligations.OverWidthShiftIsZero :=
  fun _ a =>
    ⟨fun _ h => ⟨shiftLeft_of_elemN_le a h, shiftRight_of_elemN_le a h⟩,
      fun _ h => ⟨shiftLeft_of_elemN_le a (elemN_le_foldAmount h), shiftRight_of_elemN_le a (elemN_le_foldAmount h)⟩⟩

/-- Settles O34: for two elements or more, `half` is the amount of the HALF case, whose handlers move one lane. -/
theorem halfWidthShiftMovesOneLane : Obligations.HalfWidthShiftMovesOneLane := by
  intro n a hn
  have fits := n.half_lt_elemN.trans_le n.elemN_le_thirtyTwo
  have amount : (BitVec.ofNat 6 n.half).toNat = n.half := Nat.mod_eq_of_lt (by omega)
  have nonzero : (BitVec.ofNat 6 n.half).toNat ≠ 0 := by rw [amount]; exact ElemCount.half_ne_zero hn
  exact ⟨shiftLeft_of_eq_half a nonzero amount, shiftRight_of_eq_half a nonzero amount⟩

end Machine
end Sys2Proof
end

section
/-! PROOFS. Which requests fault: the reserved command words and no others (60_exceptions.md R90, R91). -/

namespace Sys2Proof

/-- The two bits that mark a reserved word are the upper two bits of its `lgn` code (30_encoding.md R36). -/
theorem CmdWord.reservedBits_iff (cmd : CmdWord) : cmd.extractLsb' 7 2 = 3#2 ↔ 6 ≤ (lgnField cmd).toNat := by
  rw [← BitVec.toNat_inj]
  simp only [lgnField, BitVec.extractLsb'_toNat, BitVec.toNat_ofNat, Nat.shiftRight_eq_div_pow]
  omega

namespace Machine

/-- Of the instructions, ILLEGAL alone faults, whatever the operand (60_exceptions.md R91). -/
theorem responseOf_eq_fault_iff (i : Instr) (a : Value256) :
    responseOf i a = .fault .illegalCommand ↔ legalInstr i = false := by
  cases i with
  | vshl n offs => simp [responseOf, legalInstr]
  | vshr n offs => simp [responseOf, legalInstr]
  | illegal cmd => simp [responseOf, legalInstr]

/-- A request faults exactly for the `lgn` codes from 6 on (60_exceptions.md R91). -/
theorem transact_eq_fault_iff (cmd : CmdWord) (a : Value256) :
    transact cmd a = .fault .illegalCommand ↔ 6 ≤ (lgnField cmd).toNat := by
  rw [transact, responseOf_eq_fault_iff, legalInstr_decode, decide_eq_false_iff_not, Nat.not_lt]

/-- There is one fault: a response that is not it carries a result (60_exceptions.md R91). -/
theorem Response.exists_result_of_ne_fault {r : Response} (h : r ≠ .fault .illegalCommand) :
    ∃ v, r = .result v := by
  cases r with
  | result v => exact ⟨v, rfl⟩
  | fault f => cases f; exact absurd rfl h

/-- Settles O39: each clause is about the `lgn` codes from 6 on, which are 6 and 7 since the field has three bits. -/
theorem faultExactlyOnReservedWords : Obligations.FaultExactlyOnReservedWords := by
  intro cmd a
  refine ⟨(transact_eq_fault_iff cmd a).trans cmd.reservedBits_iff.symm, fun hlegal => ?_, ?_⟩
  · apply Response.exists_result_of_ne_fault
    rw [ne_eq, transact_eq_fault_iff]
    omega
  · have threeBits := (lgnField cmd).isLt
    rw [cmd.reservedBits_iff]
    omega

end Machine
end Sys2Proof
end

section
/-! PROOFS. Reset, and the tracing of each response back to the request that asked for it (70_reset_and_hazards.md R100, R101). -/

namespace Sys2Proof.Machine

/-! ### The reset edge -/

/-- In reset with a pipeline, reset takes effect (70_reset_and_hazards.md R100). -/
theorem State.inReset_of_rst {s : State} (hrst : s.ports.rst = true) (hlat : 0 < s.lat) : s.inReset = true := by
  simp [State.inReset, hrst, hlat]

@[simp] theorem State.resetEdge_inFlight (s : State) : s.resetEdge.inFlight = [] := by
  simp [State.inFlight]

/-- Nothing from before a reset edge is promised after it: only what the host plans to ask for. -/
theorem promised_resetEdge (s : State) : s.resetEdge.promised = s.inputs.filterMap PortsIn.response? := by
  rw [State.promised, State.resetEdge_delivered, State.resetEdge_inFlight]
  exact filterMap_response?_nextPorts s

/-- The ports of the next cycle do not depend on `rst`. -/
theorem State.nextPorts_setRst (s : State) (b : Bool) :
    State.nextPorts { s with ports := { s.ports with rst := b } } = s.nextPorts := by
  cases hi : s.inputs <;> simp [State.nextPorts, hi]

/-- With `LAT = 0` a step does not look at `rst` (70_reset_and_hazards.md R100). -/
theorem step_setRst_of_lat_zero {s : State} (hlat : s.lat = 0) (b : Bool) :
    step { s with ports := { s.ports with rst := b } } = .next (s.clockEdge s.ports.response?) := by
  have free : State.inReset { s with ports := { s.ports with rst := b } } = false := State.resetFree.inReset (.inr hlat)
  rw [step_of_not_inReset free, State.entering_of_not_inReset free, State.clockEdge, State.nextPorts_setRst]
  rfl

/-- Settles O52: with a pipeline the step is the reset edge; without one it is the same clock edge for both values of `rst`. -/
theorem resetDropsEverythingInFlight : Obligations.ResetDropsEverythingInFlight := by
  refine ⟨fun s hrst hlat => ?_, fun s hlat => ?_⟩
  · exact ⟨s.resetEdge, step_of_inReset (State.inReset_of_rst hrst hlat), s.resetEdge_inFlight, s.resetEdge_delivered,
      s.resetEdge_lat, promised_resetEdge s⟩
  · exact (step_setRst_of_lat_zero hlat true).trans (step_setRst_of_lat_zero hlat false).symm

/-! ### Where a response comes from -/

/-- Every step keeps the latency, at a reset edge as well (70_reset_and_hazards.md R106). -/
theorem run_lat {k : Nat} {s t : State} (h : run k s = .next t) : t.lat = s.lat := by
  induction k generalizing s with
  | zero => cases h; rfl
  | succ k ih =>
    rw [run_succ] at h
    rw [ih h]
    split
    · exact s.resetEdge_lat
    · exact s.clockEdge_lat _

/-- The machine never stops: a run of any length reaches a state. -/
theorem exists_run_eq_next (k : Nat) (s : State) : ∃ t : State, run k s = .next t := by
  induction k generalizing s with
  | zero => exact ⟨s, run_zero s⟩
  | succ k ih => rw [run_succ]; exact ih _

/-- A run of one step more ends with a reset edge or a clock edge from the state that the run before it reaches. -/
theorem exists_last_edge {k : Nat} {s t : State} (h : run (k + 1) s = .next t) :
    ∃ m : State, run k s = .next m ∧ (t = m.resetEdge ∨ t = m.clockEdge m.entering) := by
  obtain ⟨m, hm⟩ := exists_run_eq_next k s
  refine ⟨m, hm, ?_⟩
  rw [run_add k 1 hm, run_succ, run_zero] at h
  cases h
  split
  · exact .inl rfl
  · exact .inr rfl

/-- Register `i` of the pipeline after a clock edge holds what came in or was one register before. -/
theorem getElem?_of_staying {e x : Option Response} {pipe : List (Option Response)} {i : Nat}
    (h : (staying e pipe)[i]? = some x) : (e :: pipe)[i]? = some x := by
  rw [staying, List.getElem?_dropLast] at h
  split at h
  · exact h
  · cases h

/-- In a run that begins with an empty pipeline, a response in register `i` entered `i + 1` cycles before, whatever the
host did in between (70_reset_and_hazards.md R101, R106). -/
theorem entering_of_mem_pipe {k : Nat} {s t : State} (hempty : ∀ o ∈ s.pipe, o = none) (hrun : run k s = .next t)
    {i : Nat} {r : Response} (hreg : t.pipe[i]? = some (some r)) :
    ∃ (j : Nat) (u : State), k = j + (i + 1) ∧ run j s = .next u ∧ u.entering = some r := by
  induction k generalizing t i with
  | zero =>
    cases hrun
    cases hempty _ (List.mem_of_getElem? hreg)
  | succ k ih =>
    obtain ⟨m, hm, rfl | rfl⟩ := exists_last_edge hrun
    · have dropped := List.eq_of_mem_replicate (List.mem_of_getElem? hreg)
      cases dropped
    · have moved := getElem?_of_staying hreg
      cases i with
      | zero => exact ⟨k, m, rfl, hm, Option.some.inj moved⟩
      | succ i =>
        obtain ⟨j, u, hk, hu, hr⟩ := ih hm moved
        exact ⟨j, u, by omega, hu, hr⟩

/-- With a pipeline, the response channel shows its oldest register. -/
theorem State.response?_eq_oldest {s : State} (hlat : 0 < s.lat) : s.pipe[s.lat - 1]? = some s.response? := by
  have hpipe : s.pipe ≠ [] := List.ne_nil_of_length_pos hlat
  rw [State.response?, leaving_of_ne_nil hpipe, ← List.getLast?_eq_some_getLast hpipe, List.getLast?_eq_getElem?]
  rfl

/-- With `LAT = 0` the response channel answers the request on the ports at once (70_reset_and_hazards.md R101). -/
theorem State.response?_of_lat_zero {s : State} (hlat : s.lat = 0) : s.response? = s.ports.response? := by
  have hpipe : s.pipe = [] := List.eq_nil_of_length_eq_zero hlat
  rw [State.response?, hpipe, leaving_nil, State.entering_of_not_inReset (State.inReset_of_pipe_nil hpipe)]

theorem PortsIn.isSome_response? (p : PortsIn) : p.response?.isSome = p.reqValid := by
  cases h : p.reqValid <;> simp [PortsIn.response?, h]

/-- Only an accepted request brings a response into the pipeline. -/
theorem State.isSome_accepted? (s : State) : s.accepted?.isSome = s.entering.isSome :=
  Option.isSome_map.symm

/-- Settles O53: the reset edge leaves the pipeline empty, so the response in its oldest register is traced to a cycle
after the edge. -/
theorem noResponseUntilARequestAfterReset : Obligations.NoResponseUntilARequestAfterReset := by
  refine ⟨fun s t k hrst hlat hrun hvalid => ?_, fun s hlat => ?_⟩
  · have hreset := State.inReset_of_rst hrst hlat
    rw [run_succ_of_inReset k hreset] at hrun
    have sameLat : t.lat = s.lat := (run_lat hrun).trans s.resetEdge_lat
    obtain ⟨r, hr⟩ := Option.isSome_iff_exists.mp hvalid
    have oldest : t.pipe[s.lat - 1]? = some (some r) := by
      rw [← hr, ← sameLat]
      exact State.response?_eq_oldest (sameLat ▸ hlat)
    obtain ⟨j, u, hk, hu, hentered⟩ := entering_of_mem_pipe (fun _ => List.eq_of_mem_replicate) hrun oldest
    refine ⟨j, u, by omega, (run_succ_of_inReset j hreset).trans hu, ?_, hr.trans hentered.symm⟩
    rw [State.isSome_accepted?, hentered, Option.isSome_some]
  · rw [State.rspValid, State.response?_of_lat_zero hlat, PortsIn.isSome_response?]

end Sys2Proof.Machine
end

section
/-! PROOFS. Decoding and encoding are inverse to each other (30_encoding.md R35, R36). -/

namespace Sys2Proof

/-- Decoding a packed legal word gives the shift that its fields name. -/
theorem decode_packCmd (d : BitVec 1) (n : ElemCount) (offs : Amount) :
    decode (packCmd d n.lgn offs) = .shift (.ofField d) n offs := by
  simp [decode]

theorem encode_shift (d : Dir) (n : ElemCount) (offs : Amount) :
    encode (.shift d n offs) = packCmd d.field n.lgn offs := by
  cases d <;> rfl

@[simp] theorem Dir.ofField_field (d : Dir) : Dir.ofField d.field = d := by cases d <;> rfl

@[simp] theorem Dir.field_ofField (b : BitVec 1) : (Dir.ofField b).field = b := by revert b; decide

/-- A shift survives encoding and decoding, for either direction. -/
@[simp] theorem decode_encode_shift (d : Dir) (n : ElemCount) (offs : Amount) :
    decode (encode (.shift d n offs)) = .shift d n offs := by
  rw [encode_shift, decode_packCmd, Dir.ofField_field]

@[simp] theorem decode_encode_vshl (n : ElemCount) (offs : Amount) : decode (encode (.vshl n offs)) = .vshl n offs :=
  decode_encode_shift .left n offs

@[simp] theorem decode_encode_vshr (n : ElemCount) (offs : Amount) : decode (encode (.vshr n offs)) = .vshr n offs :=
  decode_encode_shift .right n offs

/-- ILLEGAL is well formed exactly for the `lgn` codes from 6 on (30_encoding.md R36). -/
theorem Instr.wf_illegal_iff (cmd : CmdWord) : (Instr.illegal cmd).wf = true ↔ 6 ≤ (lgnField cmd).toNat := by
  rw [Instr.wf, beq_iff_eq, cmd.reservedBits_iff]

theorem Instr.wf_shift (d : Dir) (n : ElemCount) (offs : Amount) : (Instr.shift d n offs).wf = true := by
  cases d <;> rfl

/-- Every well-formed instruction survives encoding and decoding. -/
theorem decode_encode {i : Instr} (h : i.wf = true) : decode (encode i) = i := by
  cases i with
  | vshl n offs => exact decode_encode_vshl n offs
  | vshr n offs => exact decode_encode_vshr n offs
  | illegal cmd => exact decode_of_six_le_lgn ((Instr.wf_illegal_iff cmd).mp h)

/-- Settles O1: the fields of a packed word are the ones packed, and a reserved word is read as itself. -/
theorem decodeOfEncodeIsTheInstruction : Obligations.DecodeOfEncodeIsTheInstruction :=
  fun _ h => decode_encode h

/-- A command word is its three fields packed (30_encoding.md R30). -/
theorem packCmd_fields (cmd : CmdWord) : packCmd (dirField cmd) (lgnField cmd) (offsField cmd) = cmd := by
  apply BitVec.eq_of_toNat_eq
  rw [packCmd_toNat, ← cmd.toNat_eq_fields]

/-- Settles O2: by the decoder's two kinds of answer. -/
theorem encodeOfDecodeIsTheWord : Obligations.EncodeOfDecodeIsTheWord := by
  intro cmd
  obtain ⟨reserved, hdecode⟩ | ⟨n, hcode, hdecode⟩ := decode_cases cmd
  · rw [hdecode]
    exact ⟨(Instr.wf_illegal_iff cmd).mpr ((ElemCount.ofLgn?_eq_none_iff _).mp reserved), rfl⟩
  · have hlgn := (ElemCount.ofLgn?_eq_some_iff _ n).mp hcode
    rw [hdecode]
    refine ⟨Instr.wf_shift _ n _, ?_⟩
    rw [encode_shift, Dir.field_ofField, hlgn, packCmd_fields]

/-- Settles O6: six closed words, evaluated. -/
theorem sampleWordsDecode : Obligations.SampleWordsDecode := by
  unfold Obligations.SampleWordsDecode
  decide

end Sys2Proof
end

section
/-! PROOFS. What a step, an instruction and a run do and leave unchanged (10_state.md section 1, 20_memory.md section 2,
70_reset_and_hazards.md sections 4 and 5). -/

namespace Sys2Proof.Machine

/-- Outside reset a step runs the presented command word. -/
theorem step_of_request {s : State} (hr : s.inReset = false) (hv : s.ports.reqValid = true) :
    step s = exec (decode s.ports.reqCmd) s := by
  simp [step, State.cycle, hr, State.accepted?_of_request hr hv]

/-- Settles O7: the second clause is the first with the instruction decoded from its own encoding. -/
theorem stepRunsTheDecodedInstruction : Obligations.StepRunsTheDecodedInstruction := by
  intro s hr hv
  refine ⟨step_of_request hr hv, fun i hwf hcmd => ?_⟩
  rw [step_of_request hr hv, hcmd, decode_encode hwf]

@[simp] theorem State.present_inReset (s : State) (cmd : CmdWord) : (s.present cmd).inReset = false := by
  simp [State.inReset]

/-- A number of at most ten bits is one command word, whatever the width it is written in (log 9). -/
theorem State.withFetchWord_eq_present (s : State) {nbits w : Nat} (h : w < 2 ^ nbits) :
    s.withFetchWord nbits w = s.present (BitVec.ofNat 10 w) := by
  rw [State.withFetchWord, State.presentBits, Nat.mod_eq_of_lt h]

theorem decodeTableWord_of_lt {nbits w : Nat} (h : w < 2 ^ nbits) (hcmd : w < 1024) :
    decodeTableWord nbits w = some (decode (BitVec.ofNat 10 w)) := by
  have isCommand : decodeBits w = .ok (decode (BitVec.ofNat 10 w)) := if_pos hcmd
  rw [decodeTableWord, Nat.mod_eq_of_lt h, isCommand]

/-- Settles O8: the word placed is the word presented, outside reset; nothing else changes. -/
theorem withFetchWordRunsTheWord : Obligations.WithFetchWordRunsTheWord := by
  intro s w hw
  have inWidth : w < 2 ^ 16 := by omega
  rw [s.withFetchWord_eq_present inWidth]
  exact ⟨decodeTableWord_of_lt inWidth hw, step_of_request (s.present_inReset _) rfl, rfl, rfl, rfl⟩

/-- Outside reset, a cycle without a request is a clock edge that nothing enters. -/
theorem step_of_no_request {s : State} (hr : s.inReset = false) (hv : s.ports.reqValid = false) :
    step s = .next (s.clockEdge none) := by
  rw [step_of_not_inReset hr, State.entering, State.accepted?_of_no_request hv, Option.map_none]

/-- Settles O9: the clock edge moves what is there, and reads neither `req_cmd` nor `req_a`. -/
theorem cycleWithoutRequestAddsNoResponse : Obligations.CycleWithoutRequestAddsNoResponse := by
  intro s hr hv
  refine ⟨s.clockEdge none, step_of_no_request hr hv, ?_, fun cmd a => ⟨_, step_of_no_request hr hv, rfl, rfl⟩⟩
  rw [delivered_append_inFlight_clockEdge, Option.toList_none, List.append_nil]

/-- With a pipeline register, what enters takes the first and the oldest register falls out. -/
theorem staying_of_ne_nil {pipe : List (Option Response)} (h : pipe ≠ []) (e : Option Response) :
    staying e pipe = e :: pipe.dropLast :=
  List.dropLast_cons_of_ne_nil h

/-- Settles O10: every instruction is a clock edge that its response enters. -/
theorem frameOfEveryInstruction : Obligations.FrameOfEveryInstruction := by
  intro i s t h
  rw [exec_eq_respond, State.respond_eq_clockEdge] at h
  cases h
  refine ⟨delivered_append_inFlight_clockEdge s _, ⟨_, rfl⟩, ?_, s.clockEdge_lat _, rfl, rfl, rfl,
    fun hlat => ?_, fun hlat => ?_⟩
  · rw [State.clockEdge_delivered, List.length_append]
    exact Nat.add_le_add_left Option.length_toList_le _
  · rw [State.clockEdge_delivered, List.eq_nil_of_length_eq_zero hlat, leaving_nil, Option.toList_some]
  · exact staying_of_ne_nil (List.ne_nil_of_length_pos hlat) _

/-- Settles O11: a step is a run of one step. -/
theorem latencyNeverChanges : Obligations.LatencyNeverChanges :=
  fun _ _ h => run_lat ((run_of_step 0 h).trans (run_zero _))

/-- Settles O12: every step is an edge, so every run goes on. -/
theorem nothingIsStuck : Obligations.NothingIsStuck :=
  ⟨fun s => ⟨_, step_eq s⟩, exists_run_eq_next⟩

end Sys2Proof.Machine
end

section
/-! PROOFS. The promised responses, and the runs in which none of them is a fault (20_memory.md section 5,
60_exceptions.md sections 1 and 3, 70_reset_and_hazards.md section 5). -/

namespace Sys2Proof.Machine

/-! ### What is promised -/

/-- Settles O42: outside reset a step is the clock edge that the presented request's response enters. -/
theorem stepKeepsThePromisedResponses : Obligations.StepKeepsThePromisedResponses := by
  intro s t hr h
  rw [step_of_not_inReset hr] at h
  cases h
  exact promised_clockEdge hr

/-- Settles O43: after reset all that is promised is still to come. -/
theorem promisedAtReset : Obligations.PromisedAtReset := promised_hostPlans_resetWith

/-- Settles O44: the belt runs empty and its responses are delivered. -/
theorem runDeliversEveryPromisedResponse : Obligations.RunDeliversEveryPromisedResponse :=
  fun _ h => run_delivers_promised h

/-! ### Clean states -/

theorem Response.eq_fault_of_isFault {r : Response} (h : r.isFault = true) : r = .fault .illegalCommand := by
  cases r with
  | result v => cases h
  | fault f => cases f; rfl

/-- Of the instructions, the legal ones alone answer without a fault (60_exceptions.md R91). -/
theorem isFault_responseOf (i : Instr) (a : Value256) : (responseOf i a).isFault = !legalInstr i := by
  cases i <;> rfl

theorem isFault_transact (cmd : CmdWord) (a : Value256) : (transact cmd a).isFault = !legalInstr (decode cmd) :=
  isFault_responseOf _ a

/-- Port values are legal when what they ask for is no fault. -/
theorem PortsIn.legal_iff (p : PortsIn) : p.legal = true ↔ ∀ r, p.response? = some r → r.isFault = false := by
  cases hv : p.reqValid with
  | false => simp [PortsIn.legal, PortsIn.response?, hv]
  | true => simp [PortsIn.legal, hv, isFault_transact]

/-- A state is clean when no fault is among its promised responses. -/
theorem State.clean_iff (s : State) : s.clean = true ↔ ∀ r ∈ s.promised, r.isFault = false := by
  have delivered : s.faulted = false ↔ ∀ r ∈ s.delivered, r.isFault = false := by simp [State.faulted]
  have toCome : (s.ports :: s.inputs).all PortsIn.legal = true ↔ ∀ r ∈ s.toCome, r.isFault = false := by
    simp only [List.all_eq_true, PortsIn.legal_iff, State.toCome, List.mem_filterMap]
    exact ⟨fun h r ⟨p, hp, hr⟩ => h p hp r hr, fun h p hp r hr => h r ⟨p, hp, hr⟩⟩
  simp only [State.clean, State.promised, Bool.and_eq_true, Bool.not_eq_true', toCome, delivered, List.all_eq_true,
    List.forall_mem_append]

/-- What is promised after a reset edge was promised before it. -/
theorem mem_promised_of_resetEdge {s : State} {r : Response} (h : r ∈ s.resetEdge.promised) : r ∈ s.promised := by
  obtain ⟨p, hp, hr⟩ := List.mem_filterMap.mp (promised_resetEdge s ▸ h)
  exact List.mem_append_right _ (List.mem_filterMap.mpr ⟨p, List.mem_cons_of_mem _ hp, hr⟩)

/-- Settles O48: a clock edge keeps the promised responses and a reset edge only drops some. -/
theorem stepKeepsClean : Obligations.StepKeepsClean := by
  intro s t hclean h
  rw [State.clean_iff] at hclean ⊢
  cases hr : s.inReset with
  | false => exact stepKeepsThePromisedResponses s t hr h ▸ hclean
  | true =>
    rw [step_of_inReset hr] at h
    cases h
    exact fun r hmem => hclean r (mem_promised_of_resetEdge hmem)

/-- Settles O49: after reset nothing is promised. -/
theorem resetIsClean : Obligations.ResetIsClean := by
  refine ⟨fun lat => ⟨?_, by simp [State.inFlight], State.resetWith_lat lat, rfl⟩, rfl⟩
  have nothing : (State.resetWith lat).promised = [] := promised_hostPlans_resetWith lat .idle []
  simp [State.clean_iff, nothing]

/-- Settles O50: the run delivers exactly what was promised, and no fault was. -/
theorem cleanRunEndsWell : Obligations.CleanRunEndsWell := by
  intro s hclean hplan
  obtain ⟨t, hrun, hdelivered, -, hover⟩ := run_delivers_promised (s := s) (.inl hplan)
  refine ⟨t, hrun, ?_⟩
  rw [State.clean_iff, ← hdelivered] at hclean
  simpa [State.goodEnd, hover, State.faulted] using hclean

end Sys2Proof.Machine
end

section
/-! PROOFS. The result multiplexer against the case handlers (41_dispatch.md R54). -/

namespace Sys2Proof.Machine

/-- Settles O20: case by case the table joins what the handler joins; in ZERO both lanes stay in their places, in FULL
both are zero. -/
theorem multiplexerAgreesWithHandlers : Obligations.MultiplexerAgreesWithHandlers := by
  intro n offs a
  rw [shiftLeft, shiftRight]
  cases shiftDispatch n offs with
  | zero => exact ⟨join_laneOf a, join_laneOf a⟩
  | half => exact ⟨rfl, rfl⟩
  | full => exact ⟨BitVec.zero_append_zero, BitVec.zero_append_zero⟩
  | sub k w => exact ⟨rfl, rfl⟩
  | super k => exact ⟨rfl, rfl⟩

end Sys2Proof.Machine
end

section
/-! PROOFS. The closed form of the right shift, and the laws that relate the shifts: the element law to the right,
composition, no round trip and the mirror (43_shift_right.md R76; 44_laws.md R83, R85, R86, R87). -/

namespace Sys2Proof.Machine

/-! ### Moving a whole value down -/

/-- Moving a value down by the bits of `o` elements moves its elements down by `o` places; what would come from beyond
the last element is zero. -/
theorem elemOf_shiftRight_bits (n : ElemCount) (a : Value256) (o i : Nat) :
    elemOf (a >>> (n.ebits * o)) i n = if i + o ≤ n.elemN - 1 then elemOf a (i + o) n else 0 := by
  apply BitVec.eq_of_getLsbD_eq
  intro j hj
  have source : n.ebits * o + (n.ebits * i + j) = n.ebits * (i + o) + j := by ring
  rw [elemOf_getLsbD, BitVec.getLsbD_ushiftRight, source]
  split
  case isTrue => rw [elemOf_getLsbD]
  case isFalse beyond =>
    have pastTheEnd : 256 ≤ n.ebits * (i + o) + j :=
      calc 256 = n.ebits * n.elemN := n.ebits_mul_elemN.symm
        _ ≤ n.ebits * (i + o) := Nat.mul_le_mul_left _ (by omega)
        _ ≤ n.ebits * (i + o) + j := Nat.le_add_right _ _
    simp [BitVec.getLsbD_of_ge _ _ pastTheEnd]

/-- Moving a value down by `k` bytes moves its bytes, the elements of `n32`, down by `k` places. -/
theorem byteOf_shiftRight_bytes (a : Value256) (k j : Nat) :
    byteOf (a >>> (8 * k)) j = if j + k ≤ 31 then byteOf a (j + k) else 0 :=
  elemOf_shiftRight_bits .n32 a k j

/-! ### The closed form of the right shift (43_shift_right.md R76) -/

@[simp] theorem bsr_zero (x : Lane) : bsr x 0 = x := BitVec.ushiftRight_zero x

/-- SUB is a shift of the whole value by its `k` bytes. -/
theorem shrSub_eq_shiftRight {k : Nat} (hk : k ≤ 16) (a : Value256) : shrSub k a = a >>> (8 * k) := by
  refine eq_of_lane_bytes_eq (fun j hj => ?_) (fun j hj => ?_)
  · rw [byteOf_shrSub_low hk a hj, byteOf_shiftRight_bytes, if_pos (by omega)]
  · have sameRange : j + k ≤ 15 ↔ 16 + j + k ≤ 31 := by omega
    rw [byteOf_shrSub_high k a hj, byteOf_shiftRight_bytes]
    simp only [sameRange]

/-- SUPER is a shift of the whole value by one lane and its `k` bytes. -/
theorem shrSuper_eq_shiftRight (k : Nat) (a : Value256) : shrSuper k a = a >>> (8 * (16 + k)) := by
  refine eq_of_lane_bytes_eq (fun j hj => ?_) (fun j hj => ?_)
  · have sameRange : j + k ≤ 15 ↔ j + (16 + k) ≤ 31 := by omega
    have source : 16 + j + k = j + (16 + k) := by omega
    rw [byteOf_shrSuper_low k a hj, byteOf_shiftRight_bytes, source]
    simp only [sameRange]
  · rw [byteOf_shrSuper_high k a hj, byteOf_shiftRight_bytes, if_neg (by omega)]

/-- HALF is the shift by one lane: SUPER with no bytes beyond it. -/
theorem shrHalf_eq_shiftRight (a : Value256) : shrHalf a = a >>> (8 * 16) := by
  have noBytes : shrSuper 0 a = shrHalf a := by rw [shrSuper, bsr_zero, shrHalf]
  exact noBytes.symm.trans (shrSuper_eq_shiftRight 0 a)

/-- VSHR by `o` elements is a logical shift of the whole value by their bits, case by case. -/
theorem shiftRight_eq_shiftRight_bits (n : ElemCount) (offs : Amount) (a : Value256) :
    shiftRight n offs a = a >>> (n.ebits * offs.toNat) := by
  have bits : n.ebits * offs.toNat = 8 * (offs.toNat * n.size) := by rw [n.ebits_eq]; ring
  obtain ⟨zero, -⟩ | ⟨nonzero, half, -⟩ | ⟨full, -⟩ | ⟨low, high, -⟩ | ⟨low, high, -⟩ := shiftDispatch_cases n offs
  · rw [shiftRight_of_eq_zero a zero, zero, Nat.mul_zero, BitVec.ushiftRight_zero]
  · rw [shiftRight_of_eq_half a nonzero half, shrHalf_eq_shiftRight, bits, half,
      ElemCount.half_mul_size (half ▸ nonzero)]
  · have allBits : 256 ≤ n.ebits * offs.toNat := n.ebits_mul_elemN ▸ Nat.mul_le_mul_left _ full
    rw [shiftRight_of_elemN_le a full, BitVec.ushiftRight_eq_zero allBits]
  · obtain ⟨-, -, -, kLt⟩ := ElemCount.mul_size_bounds low high
    rw [shiftRight_of_lt_half a low high, shrSub_eq_shiftRight (by omega), bits]
  · have inLane := ElemCount.sub_half_lt_half low high
    have bytes : offs.toNat * n.size = 16 + (offs.toNat - n.half) * n.size := by
      rw [← ElemCount.half_mul_size (n := n) (by omega), ← Nat.add_mul, Nat.add_sub_cancel' low.le]
    rw [shiftRight_of_half_lt a low high, shrSuper_eq_shiftRight, bits, bytes]

/-- Settles O27: below `elem_n` the closed form, from `elem_n` on the FULL case. -/
theorem vshlIsOneWideShift : Obligations.VshlIsOneWideShift := by
  intro n offs s
  apply exec_vshl_of_shiftLeft_eq
  split
  case isTrue => exact shiftLeft_eq_shiftLeft_bits n offs _
  case isFalse full => exact shiftLeft_of_elemN_le _ (Nat.le_of_not_lt full)

/-- Settles O28: below `elem_n` the closed form, from `elem_n` on the FULL case. -/
theorem vshrIsOneWideShift : Obligations.VshrIsOneWideShift := by
  intro n offs s
  apply exec_vshr_of_shiftRight_eq
  split
  case isTrue => exact shiftRight_eq_shiftRight_bits n offs _
  case isFalse full => exact shiftRight_of_elemN_le _ (Nat.le_of_not_lt full)

/-! ### The element law to the right, and what elements determine -/

theorem elemOf_shiftRight (n : ElemCount) (offs : Amount) (a : Value256) (i : Nat) :
    elemOf (shiftRight n offs a) i n = if i + offs.toNat ≤ n.elemN - 1 then elemOf a (i + offs.toNat) n else 0 := by
  rw [shiftRight_eq_shiftRight_bits, elemOf_shiftRight_bits]

/-- Settles O32: the closed form moves the elements of the whole value. -/
theorem elementLawRight : Obligations.ElementLawRight :=
  fun n offs a i _ => elemOf_shiftRight n offs a i

/-- Settles O33: the elements cover all the bits. -/
theorem elementsDetermineTheValue : Obligations.ElementsDetermineTheValue :=
  fun n _ _ h => eq_of_elemOf_eq n h

/-! ### Composition -/

/-- Folding changes no amount that matters: the bits to move by stay the same, or are all the bits and more before and
after (30_encoding.md R39). -/
theorem ebits_mul_foldAmount (n : ElemCount) (o : Nat) :
    n.ebits * (foldAmount o).toNat = n.ebits * o ∨ 256 ≤ n.ebits * (foldAmount o).toNat ∧ 256 ≤ n.ebits * o := by
  rcases Nat.lt_or_ge o n.elemN with small | full
  · have unfolded : min o 63 = o := Nat.min_eq_left (by have := n.elemN_le_thirtyTwo; omega)
    rw [foldAmount_toNat, unfolded]
    exact .inl rfl
  · have allBits {k : Nat} (h : n.elemN ≤ k) : 256 ≤ n.ebits * k := n.ebits_mul_elemN ▸ Nat.mul_le_mul_left _ h
    exact .inr ⟨allBits (elemN_le_foldAmount full), allBits full⟩

/-- A left shift by a folded amount is the closed form of the amount that was folded. -/
theorem shiftLeft_foldAmount (n : ElemCount) (o : Nat) (a : Value256) :
    shiftLeft n (foldAmount o) a = a <<< (n.ebits * o) := by
  rw [shiftLeft_eq_shiftLeft_bits]
  obtain same | ⟨folded, original⟩ := ebits_mul_foldAmount n o
  · rw [same]
  · rw [BitVec.shiftLeft_eq_zero folded, BitVec.shiftLeft_eq_zero original]

/-- A right shift by a folded amount is the closed form of the amount that was folded. -/
theorem shiftRight_foldAmount (n : ElemCount) (o : Nat) (a : Value256) :
    shiftRight n (foldAmount o) a = a >>> (n.ebits * o) := by
  rw [shiftRight_eq_shiftRight_bits]
  obtain same | ⟨folded, original⟩ := ebits_mul_foldAmount n o
  · rw [same]
  · rw [BitVec.ushiftRight_eq_zero folded, BitVec.ushiftRight_eq_zero original]

/-- Two left shifts move by the sum of their bits, whatever the element counts. -/
theorem shiftLeft_shiftLeft (n m : ElemCount) (p q : Amount) (a : Value256) :
    shiftLeft m q (shiftLeft n p a) = a <<< (n.ebits * p.toNat + m.ebits * q.toNat) := by
  rw [shiftLeft_eq_shiftLeft_bits, shiftLeft_eq_shiftLeft_bits, BitVec.shiftLeft_add]

/-- Two right shifts move by the sum of their bits, whatever the element counts. -/
theorem shiftRight_shiftRight (n m : ElemCount) (p q : Amount) (a : Value256) :
    shiftRight m q (shiftRight n p a) = a >>> (n.ebits * p.toNat + m.ebits * q.toNat) := by
  rw [shiftRight_eq_shiftRight_bits, shiftRight_eq_shiftRight_bits, BitVec.shiftRight_add]

/-- Settles O35: in closed form both sides of each law are one shift by the same number of bits. -/
theorem shiftsCompose : Obligations.ShiftsCompose := by
  refine ⟨fun n p q a => ⟨?_, ?_⟩, fun n m p q a => ?_⟩
  · rw [shiftLeft_shiftLeft, shiftLeft_foldAmount, Nat.mul_add]
  · rw [shiftRight_shiftRight, shiftRight_foldAmount, Nat.mul_add]
  · have bytes : 8 * (p.toNat * n.size + q.toNat * m.size) = n.ebits * p.toNat + m.ebits * q.toNat := by
      rw [n.ebits_eq, m.ebits_eq]; ring
    rw [bytes]
    exact ⟨shiftLeft_shiftLeft n m p q a, shiftRight_shiftRight n m p q a⟩

/-! ### No round trip -/

/-- A value that keeps some elements of `a` and clears the others is `a` exactly when the cleared elements were zero. -/
theorem eq_iff_cleared_eq_zero (n : ElemCount) (a b : Value256) (kept : Nat → Prop) [DecidablePred kept]
    (h : ∀ i < n.elemN, elemOf b i n = if kept i then elemOf a i n else 0) :
    b = a ↔ ∀ i < n.elemN, ¬ kept i → elemOf a i n = 0 := by
  constructor
  · rintro rfl i hi cleared
    rw [h i hi, if_neg cleared]
  · intro zero
    refine eq_of_elemOf_eq n fun i hi => ?_
    rw [h i hi]
    split
    case isTrue => rfl
    case isFalse cleared => exact (zero i hi cleared).symm

/-- Left then right clears the top `o` elements. -/
theorem elemOf_shiftRight_shiftLeft (n : ElemCount) (o : Amount) (a : Value256) {i : Nat} (hi : i < n.elemN) :
    elemOf (shiftRight n o (shiftLeft n o a)) i n = if i + o.toNat ≤ n.elemN - 1 then elemOf a i n else 0 := by
  rw [elemOf_shiftRight]
  split
  case isTrue inside =>
    rw [elementLawLeft n o a _ (by omega), if_pos (Nat.le_add_left _ _), Nat.add_sub_cancel]
  case isFalse => rfl

/-- Right then left clears the low `o` elements. -/
theorem elemOf_shiftLeft_shiftRight (n : ElemCount) (o : Amount) (a : Value256) {i : Nat} (hi : i < n.elemN) :
    elemOf (shiftLeft n o (shiftRight n o a)) i n = if o.toNat ≤ i then elemOf a i n else 0 := by
  rw [elementLawLeft n o _ i hi]
  split
  case isTrue inside => rw [elemOf_shiftRight, Nat.sub_add_cancel inside, if_pos (by omega)]
  case isFalse => rfl

/-- Settles O36: the two element laws one after the other, and each round trip is the identity when it clears nothing
but zeros. -/
theorem oppositeShiftsAreNoRoundTrip : Obligations.OppositeShiftsAreNoRoundTrip := by
  intro n o a _
  have cleared (i : Nat) : ¬ i + o.toNat ≤ n.elemN - 1 ↔ n.elemN ≤ i + o.toNat := by
    have := n.elemN_pos
    omega
  refine ⟨fun i hi => ⟨elemOf_shiftRight_shiftLeft n o a hi, elemOf_shiftLeft_shiftRight n o a hi⟩, ?_, ?_⟩
  · rw [eq_iff_cleared_eq_zero n a _ _ fun i hi => elemOf_shiftRight_shiftLeft n o a hi]
    simp only [cleared]
  · rw [eq_iff_cleared_eq_zero n a _ _ fun i hi => elemOf_shiftLeft_shiftRight n o a hi]
    simp only [Nat.not_le]

/-! ### The mirror -/

/-- Settles O37: element `i` of the reversed left shift comes from the reversal's element `n-1-i-offs`, which is
element `i+offs` of the operand. -/
theorem rightShiftMirrorsLeftShift : Obligations.RightShiftMirrorsLeftShift := by
  intro n offs a b c hb hc
  refine eq_of_elemOf_eq n fun i hi => ?_
  have sameRange : offs.toNat ≤ n.elemN - 1 - i ↔ i + offs.toNat ≤ n.elemN - 1 := by omega
  rw [hc i hi, elementLawLeft n offs b _ (by omega), elemOf_shiftRight]
  simp only [sameRange]
  split
  case isTrue inside =>
    have source : n.elemN - 1 - (n.elemN - 1 - i - offs.toNat) = i + offs.toNat := by omega
    rw [hb _ (by omega), source]
  case isFalse => rfl

end Sys2Proof.Machine
end

section
/-! PROOFS. When a response is on the response channel, and what its wires show (70_reset_and_hazards.md sections 4 and 5,
60_exceptions.md sections 1, 4 and 7). -/

namespace Sys2Proof.Machine

/-! ### The response to a request comes after `LAT` cycles -/

/-- The response channel shows the first place of the belt, in a cycle of reset as well: reset takes effect at the edge
(log 3). -/
theorem belt_getElem?_zero (s : State) : s.belt[0]? = some s.response? := by
  cases hpipe : s.pipe with
  | nil =>
    rw [State.response?_of_lat_zero (congrArg List.length hpipe)]
    simp [State.belt, hpipe]
  | cons x xs =>
    have hne : s.pipe ≠ [] := hpipe ▸ List.cons_ne_nil x xs
    rw [State.belt, List.getElem?_append_left (List.length_pos_of_ne_nil (List.reverse_ne_nil_iff.mpr hne)),
      ← List.head?_eq_getElem?, List.head?_reverse, List.getLast?_eq_some_getLast hne, State.response?,
      leaving_of_ne_nil hne]

/-- The presented request has the place of the belt behind the `LAT` registers. -/
theorem belt_getElem?_lat (s : State) : s.belt[s.lat]? = some s.ports.response? := by
  have place : s.lat = s.pipe.reverse.length := List.length_reverse.symm
  rw [State.belt, place, List.getElem?_append_right (Nat.le_refl _), Nat.sub_self, List.map_cons,
    List.getElem?_cons_zero]

/-- A clock edge takes every place of the belt one forward. -/
theorem belt_getElem?_clockEdge {s : State} (h : s.inReset = false) {k : Nat} {o : Option Response}
    (hplace : s.belt[k + 1]? = some o) : (s.clockEdge s.entering).belt[k]? = some o := by
  have inside : k + 1 < s.belt.length := (List.getElem?_eq_some_iff.mp hplace).1
  rw [← List.getElem?_cons_succ (a := leaving s.entering s.pipe), belt_clockEdge h, List.getElem?_append_left inside,
    hplace]

/-- No reset is asserted in this cycle or in the next `k - 1`. -/
def State.noResetFor (s : State) (k : Nat) : Prop := ∀ p ∈ (s.ports :: s.inputs).take k, p.rst = false

theorem State.noResetFor.inReset {s : State} {k : Nat} (h : s.noResetFor (k + 1)) : s.inReset = false := by
  have now : s.ports.rst = false := h s.ports (by rw [List.take_succ_cons]; exact List.mem_cons_self)
  simp [State.inReset, now]

theorem State.noResetFor.clockEdge {s : State} {k : Nat} (h : s.noResetFor (k + 1)) (e : Option Response) :
    (s.clockEdge e).noResetFor k := by
  intro p hp
  cases hi : s.inputs with
  | nil =>
    have exhausted : p = s.nextPorts := by simpa [hi] using List.mem_of_mem_take hp
    simp [exhausted, State.nextPorts, hi]
  | cons q qs =>
    have planned : p ∈ s.inputs.take k := by simpa [State.nextPorts, hi] using hp
    exact h p (by rw [List.take_succ_cons]; exact List.mem_cons_of_mem _ planned)

/-- After `k` cycles without reset the response channel shows what was in place `k` of the belt. -/
theorem response?_of_run {k : Nat} {s t : State} (hr : s.noResetFor k) (hrun : run k s = .next t) {o : Option Response}
    (hplace : s.belt[k]? = some o) : t.response? = o := by
  induction k generalizing s with
  | zero =>
    cases hrun
    exact Option.some.inj ((belt_getElem?_zero t).symm.trans hplace)
  | succ k ih =>
    rw [run_succ_of_not_inReset k hr.inReset] at hrun
    exact ih (hr.clockEdge _) hrun (belt_getElem?_clockEdge hr.inReset hplace)

/-- Settles O40: the request of this cycle has place `LAT` of the belt, whatever is in the registers before it. -/
theorem responseComesAfterExactlyLat : Obligations.ResponseComesAfterExactlyLat :=
  fun s _ hr hrun => response?_of_run hr hrun (belt_getElem?_lat s)

/-! ### The wires -/

theorem Response.ill_eq_true_iff (r : Response) : r.ill = true ↔ r = .fault .illegalCommand := by
  cases r with
  | result v => simp [Response.ill, Response.causeCode]
  | fault f => cases f; simp [Response.ill, Response.causeCode]

/-- A request faults exactly for the reserved words, as the two bits of the word say it (60_exceptions.md R91). -/
theorem transact_eq_fault_iff_reservedBits (cmd : CmdWord) (a : Value256) :
    transact cmd a = .fault .illegalCommand ↔ cmd.extractLsb' 7 2 = 3#2 :=
  (transact_eq_fault_iff cmd a).trans cmd.reservedBits_iff.symm

section
variable {s : State} {r : Response} (h : s.response? = some r)
include h

theorem State.rspValid_of_response : s.rspValid = true := by rw [State.rspValid, h, Option.isSome_some]

theorem State.rspIll_of_response : s.rspIll = r.ill := by rw [State.rspIll, h]

end

theorem State.rspR_of_result {s : State} {v : Value256} (h : s.response? = some (.result v)) : s.rspR = v := by
  rw [State.rspR, h]

/-- Settles O41: the wires show the transaction that comes after `LAT` cycles. -/
theorem responseWiresShowTheTransaction : Obligations.ResponseWiresShowTheTransaction := by
  intro s t hvalid hr hrun
  have shown : t.response? = some (transact s.ports.reqCmd s.ports.reqA) := by
    rw [responseComesAfterExactlyLat s t hr hrun, if_pos hvalid]
  refine ⟨State.rspValid_of_response shown, ?_, fun r hresult => State.rspR_of_result (hresult ▸ shown)⟩
  rw [State.rspIll_of_response shown, Response.ill_eq_true_iff, transact_eq_fault_iff_reservedBits]

/-! ### Reserved words -/

theorem decode_of_reservedBits {cmd : CmdWord} (h : cmd.extractLsb' 7 2 = 3#2) : decode cmd = .illegal cmd :=
  decode_of_six_le_lgn (cmd.reservedBits_iff.mp h)

/-- ILLEGAL completes in every state (60_exceptions.md R95; log 8). -/
theorem exec_illegal (cmd : CmdWord) (s : State) :
    exec (.illegal cmd) s = .next (s.respond (.fault .illegalCommand)) :=
  exec_eq_respond _ s

/-- Settles O38: a reserved word decodes to ILLEGAL, which answers the only fault. -/
theorem illegalRespondsWithTheFault : Obligations.IllegalRespondsWithTheFault := by
  refine ⟨exec_illegal, fun cmd s h => ?_, fun f => ?_, rfl, fun _ => rfl⟩
  · rw [decode_of_reservedBits h, exec_illegal]
  · cases f
    rfl

/-- A presented reserved word asks for the fault. -/
theorem PortsIn.response?_of_not_legal {p : PortsIn} (hv : p.reqValid = true) (h : p.legal = false) :
    p.response? = some (.fault .illegalCommand) := by
  rw [PortsIn.response?_of_request hv, Option.some_inj, transact, responseOf_eq_fault_iff]
  simpa [PortsIn.legal, hv] using h

/-- Settles O47: each response is that of its own request, so that the fault stands in its place among the others. -/
theorem faultIsIsolated : Obligations.FaultIsIsolated := by
  intro lat before after bad t hplan hvalid hreserved hrun
  have noReset : ∀ q ∈ PortsIn.idle :: (before ++ bad :: after), q.rst = false := List.forall_mem_cons.mpr ⟨rfl, hplan⟩
  obtain ⟨t', hrun', hdelivered, hover⟩ := run_resetWith_delivers lat noReset
  rw [hrun] at hrun'
  cases hrun'
  rw [List.filterMap_cons_none PortsIn.response?_idle, List.filterMap_append,
    List.filterMap_cons_some (PortsIn.response?_of_not_legal hvalid hreserved)] at hdelivered
  refine ⟨hdelivered, hover, ?_⟩
  simp [State.goodEnd, State.faulted, hdelivered, Response.isFault]

end Sys2Proof.Machine
end

section
/-! PROOFS. Nothing but the value of a result depends on data: erasing the data commutes with the step
(41_dispatch.md R56, 70_reset_and_hazards.md section 4). -/

namespace Sys2Proof.Machine

/-! ### What erasing leaves -/

section
variable (s : State)

@[simp] theorem State.eraseData_ports : s.eraseData.ports = s.ports.eraseData := rfl
@[simp] theorem State.eraseData_inputs : s.eraseData.inputs = s.inputs.map PortsIn.eraseData := rfl
@[simp] theorem State.eraseData_pipe : s.eraseData.pipe = s.pipe.map (Option.map Response.eraseData) := rfl
@[simp] theorem State.eraseData_delivered : s.eraseData.delivered = s.delivered.map Response.eraseData := rfl
@[simp] theorem State.eraseData_draw : s.eraseData.draw = s.draw := rfl

@[simp] theorem State.eraseData_lat : s.eraseData.lat = s.lat := List.length_map _

@[simp] theorem State.eraseData_inReset : s.eraseData.inReset = s.inReset := by
  rw [State.inReset, State.eraseData_lat]
  rfl

@[simp] theorem State.eraseData_accepted? : s.eraseData.accepted? = s.accepted? := by
  rw [State.accepted?, State.eraseData_inReset]
  rfl

@[simp] theorem State.eraseData_nextPorts : s.eraseData.nextPorts = s.nextPorts.eraseData := by
  cases hi : s.inputs <;> simp [State.nextPorts, hi, PortsIn.eraseData]

end

@[simp] theorem Response.eraseData_eraseData (r : Response) : r.eraseData.eraseData = r.eraseData := by
  cases r <;> rfl

@[simp] theorem Response.ill_eraseData (r : Response) : r.eraseData.ill = r.ill := by
  cases r <;> rfl

@[simp] theorem PortsIn.eraseData_eraseData (p : PortsIn) : p.eraseData.eraseData = p.eraseData := rfl

/-- Erasing twice erases no more. -/
@[simp] theorem State.eraseData_eraseData (s : State) : s.eraseData.eraseData = s.eraseData := by
  simp [State.eraseData, Function.comp_def]

/-- Which response an instruction gives does not depend on its operand, apart from the value of the result. -/
theorem eraseData_responseOf (i : Instr) (a b : Value256) :
    (responseOf i a).eraseData = (responseOf i b).eraseData := by
  cases i <;> rfl

/-- What enters the pipeline on erased ports differs in its data alone. -/
theorem State.map_eraseData_entering (s : State) :
    s.eraseData.entering.map Response.eraseData = s.entering.map Response.eraseData := by
  rw [State.entering, State.eraseData_accepted?, State.entering, Option.map_map, Option.map_map]
  exact Option.map_congr fun cmd _ => eraseData_responseOf (decode cmd) _ _

/-! ### The two edges -/

theorem leaving_map (f : Option Response → Option Response) (e : Option Response) (pipe : List (Option Response)) :
    leaving (f e) (pipe.map f) = f (leaving e pipe) := by
  simp only [leaving, List.getLastD_eq_getLast?, List.getLast?_map, Option.getD_map]

theorem staying_map (f : Option Response → Option Response) (e : Option Response) (pipe : List (Option Response)) :
    staying (f e) (pipe.map f) = (staying e pipe).map f := by
  rw [staying, staying, List.map_dropLast, List.map_cons]

/-- A clock edge of the erased state, entered by an erased response, is the clock edge with its data erased. -/
theorem State.clockEdge_eraseData (s : State) (e : Option Response) :
    s.eraseData.clockEdge (e.map Response.eraseData) = (s.clockEdge e).eraseData := by
  have delivered : s.eraseData.delivered ++ ((leaving e s.pipe).map Response.eraseData).toList =
      (s.delivered ++ (leaving e s.pipe).toList).map Response.eraseData := by
    rw [List.map_append, Option.toList_map]
    rfl
  rw [State.clockEdge, State.eraseData_pipe, staying_map, leaving_map, delivered, State.eraseData_nextPorts,
    State.eraseData_inputs, ← List.map_tail]
  rfl

theorem State.resetEdge_eraseData (s : State) : s.eraseData.resetEdge = s.resetEdge.eraseData := by
  have emptied : List.replicate s.lat none = (List.replicate s.lat none).map (Option.map Response.eraseData) := by simp
  rw [State.resetEdge, State.eraseData_nextPorts, State.eraseData_inputs, ← List.map_tail, State.eraseData_lat, emptied]
  rfl

/-- Erasing the data of the entering response makes no difference to the erased clock edge. -/
theorem State.eraseData_clockEdge_entering (s : State) :
    (s.eraseData.clockEdge s.eraseData.entering).eraseData = (s.clockEdge s.entering).eraseData := by
  rw [← State.clockEdge_eraseData, State.eraseData_eraseData, State.map_eraseData_entering, State.clockEdge_eraseData]

/-! ### The wires -/

/-- What is on the response channel with erased data differs in its data alone. -/
theorem State.map_eraseData_response? (s : State) :
    s.eraseData.response?.map Response.eraseData = s.response?.map Response.eraseData := by
  rw [State.response?, ← leaving_map (Option.map Response.eraseData), State.map_eraseData_entering, ← State.eraseData_pipe, State.eraseData_eraseData,
    State.eraseData_pipe, leaving_map, State.response?]

/-- The wire `rsp_valid` is read off the response without its data. -/
theorem State.rspValid_eq (s : State) : s.rspValid = (s.response?.map Response.eraseData).isSome := by
  rw [State.rspValid, Option.isSome_map]

/-- The wire `rsp_ill` is read off the response without its data, and off the counter (log 7). -/
theorem State.rspIll_eq (s : State) :
    s.rspIll = ((s.response?.map Response.eraseData).map Response.ill).getD (Config.openRspIll s.draw) := by
  rw [State.rspIll]
  cases s.response? with
  | none => rfl
  | some r => exact r.ill_eraseData.symm

/-- Settles O51: the two edges commute with erasing, and the two wires are read off what erasing leaves. -/
theorem onlyResultsDependOnData : Obligations.OnlyResultsDependOnData := by
  intro s t h
  refine ⟨⟨_, step_eq _, ?_⟩, ?_, ?_⟩
  · rw [step_eq] at h
    cases h
    rw [State.eraseData_inReset]
    split
    · rw [State.resetEdge_eraseData, State.eraseData_eraseData]
    · exact s.eraseData_clockEdge_entering
  · rw [State.rspValid_eq, State.map_eraseData_response?, State.rspValid_eq]
  · rw [State.rspIll_eq, State.map_eraseData_response?, State.rspIll_eq, State.eraseData_draw]

end Sys2Proof.Machine
end

section
/-! PROOFS. What the assembler emits and what it rejects (30_encoding.md section 6). -/

namespace Sys2Proof.Machine

/-! ### Shift statements -/

/-- The word of a shift as a number (30_encoding.md R30). -/
theorem encode_shift_toNat (d : Dir) (n : ElemCount) (offs : Amount) :
    (encode (.shift d n offs)).toNat = d.field.toNat * 512 + n.lgn.toNat * 64 + offs.toNat := by
  rw [encode_shift, packCmd_toNat]

/-- The code of an element count is its logarithm (30_encoding.md R32). -/
theorem elemN_log2 (n : ElemCount) : n.elemN.log2 = n.lgn.toNat := Nat.log2_two_pow

/-- A legal shift statement assembles to the number that R38 gives. -/
theorem assemble_shift_word (d : Dir) (n : ElemCount) (o : Nat) :
    ∃ w, assemble (.shift d n.elemN o) = .word w ∧
      w.toNat = d.field.toNat * 512 + n.elemN.log2 * 64 + min o 63 := by
  refine ⟨_, assemble_shift d n o, ?_⟩
  rw [encode_shift_toNat, elemN_log2, foldAmount_toNat]

/-- The six element counts are the only numbers read as one (30_encoding.md R38). -/
theorem elemCountOfNumber?_eq_none {e : Nat} (h : e ∉ [1, 2, 4, 8, 16, 32]) : elemCountOfNumber? e = none := by
  simp only [List.mem_cons, List.not_mem_nil, or_false, not_or] at h
  obtain ⟨h1, h2, h4, h8, h16, h32⟩ := h
  simp [elemCountOfNumber?]

theorem assemble_bad_elemCount (d : Dir) {e : Nat} (offs : Int) (h : elemCountOfNumber? e = none) :
    assemble (.shift d e offs) = .rejected .badElemCount := by
  simp only [assemble, h]

theorem assemble_negative (d : Dir) (n : ElemCount) {offs : Int} (h : offs < 0) :
    assemble (.shift d n.elemN offs) = .rejected .negativeAmount := by
  obtain ⟨m, rfl⟩ := Int.eq_negSucc_of_lt_zero h
  simp only [assemble, elemCountOfNumber?_elemN]

/-- Settles O54: the word's three fields as a number, and the two rejections in the order in which they are looked for. -/
theorem assemblerEncodesOrRejects : Obligations.AssemblerEncodesOrRejects :=
  ⟨fun n offs => ⟨assemble_shift_word .left n offs, assemble_shift_word .right n offs⟩,
    fun d _ offs h => assemble_bad_elemCount d offs (elemCountOfNumber?_eq_none h),
    fun d n _ h => assemble_negative d n h⟩

/-! ### Folding and the pseudo-instructions -/

theorem foldAmount_of_gt {o : Nat} (h : 63 < o) : foldAmount o = 63 := by
  apply BitVec.eq_of_toNat_eq
  rw [foldAmount_toNat, Nat.min_eq_right (Nat.le_of_lt h)]
  rfl

theorem transact_encode_vshl (n : ElemCount) (offs : Amount) (a : Value256) :
    transact (encode (.vshl n offs)) a = .result (shiftLeft n offs a) := by
  rw [transact, decode_encode_vshl, responseOf]

theorem transact_encode_vshr (n : ElemCount) (offs : Amount) (a : Value256) :
    transact (encode (.vshr n offs)) a = .result (shiftRight n offs a) := by
  rw [transact, decode_encode_vshr, responseOf]

/-- The largest encodable amount is over-width for every element count. -/
theorem elemN_le_maxAmount (n : ElemCount) : n.elemN ≤ (63 : Amount).toNat :=
  n.elemN_le_thirtyTwo.trans (by decide)

/-- Settles O55: amount 63 is over-width for every element count, VMOV is `VSHL.n1 0` and VZERO is `VSHL.n1 1`. -/
theorem foldingAndPseudoInstructionsAreExact : Obligations.FoldingAndPseudoInstructionsAreExact := by
  refine ⟨fun n offs a h => ?_, rfl, fun a => ?_, rfl, fun a => ?_⟩
  · have full := elemN_le_maxAmount n
    rw [assemble_shift, assemble_shift, foldAmount_of_gt h, transact_encode_vshl, transact_encode_vshr,
      shiftLeft_of_elemN_le a full, shiftRight_of_elemN_le a full]
    exact ⟨rfl, rfl, rfl, rfl⟩
  · exact (transact_encode_vshl .n1 0 a).trans (congrArg Response.result (shiftLeft_of_eq_zero a rfl))
  · exact (transact_encode_vshl .n1 1 a).trans (congrArg Response.result (shiftLeft_of_elemN_le a (by decide)))

/-! ### Lines of text -/

/-- Settles O56: nine closed lines, evaluated. -/
theorem sampleLinesAssemble : Obligations.SampleLinesAssemble := by
  unfold Obligations.SampleLinesAssemble
  decide

/-- A word the assembler answers is that of a shift. -/
theorem exists_shift_of_assemble {st : AsmStmt} {w : CmdWord} (h : assemble st = .word w) :
    ∃ (d : Dir) (n : ElemCount) (offs : Amount), w = encode (.shift d n offs) := by
  cases st with
  | shift d e o =>
    simp only [assemble] at h
    split at h
    case h_3 n o' _ => exact ⟨d, n, foldAmount o', (AsmResult.word.inj h).symm⟩
    all_goals cases h
  | vmov => exact ⟨.left, .n1, 0, (AsmResult.word.inj h).symm⟩
  | vzero => exact ⟨.left, .n1, 1, (AsmResult.word.inj h).symm⟩

/-- A word for a line is the word of the statement that the line writes. -/
theorem exists_stmt_of_assembleLine {line : List Char} {w : CmdWord} (h : assembleLine line = .word w) :
    ∃ st, parseStmt? (asmTokens line []) = some st ∧ assemble st = .word w := by
  rw [assembleLine] at h
  split at h
  · cases h
  · split at h
    case h_1 st hst => exact ⟨st, hst, h⟩
    case h_2 => cases h

theorem legalInstr_shift (d : Dir) (n : ElemCount) (offs : Amount) : legalInstr (.shift d n offs) = true := by
  cases d <;> rfl

/-- Settles O57: whatever the line, its word encodes a shift, and decodes to it. -/
theorem assemblerNeverEmitsReservedWords : Obligations.AssemblerNeverEmitsReservedWords := by
  intro line w h
  obtain ⟨st, -, hst⟩ := exists_stmt_of_assembleLine h
  obtain ⟨d, n, offs, rfl⟩ := exists_shift_of_assemble hst
  rw [decode_encode_shift, legalInstr_shift]

end Sys2Proof.Machine
end

section
/-! PROOFS. The chaining host, alone and on the machine (92_eei_decisions.md D16, 20_memory.md R26, 60_exceptions.md R96). -/

namespace Sys2Proof.Machine

/-! ### The chain -/

theorem chainFrom_of_result {cmd : CmdWord} {v r : Value256} (h : transact cmd v = .result r) (i : Nat)
    (rest : List CmdWord) : chainFrom i (cmd :: rest) v = chainFrom (i + 1) rest r := by
  simp only [chainFrom, h]

theorem chainFrom_of_fault {cmd : CmdWord} {v : Value256} {f : Fault} (h : transact cmd v = .fault f) (i : Nat)
    (rest : List CmdWord) : chainFrom i (cmd :: rest) v = .faultedAt i := by
  simp only [chainFrom, h]

/-- A legal word gives a result, whatever the operand. -/
theorem transact_of_legal {cmd : CmdWord} (h : legalInstr (decode cmd) = true) (a : Value256) :
    ∃ r, transact cmd a = .result r := by
  apply Response.exists_result_of_ne_fault
  rw [ne_eq, transact, responseOf_eq_fault_iff, h]
  decide

theorem transact_of_reserved {cmd : CmdWord} (h : legalInstr (decode cmd) = false) (a : Value256) :
    transact cmd a = .fault .illegalCommand :=
  (responseOf_eq_fault_iff _ a).mpr h

/-- Behind legal words the chain goes on, with some value and that many places further. -/
theorem chainFrom_append_of_legal {before : List CmdWord} (h : ∀ w ∈ before, legalInstr (decode w) = true) (i : Nat)
    (rest : List CmdWord) (v : Value256) :
    ∃ v', chainFrom i (before ++ rest) v = chainFrom (i + before.length) rest v' := by
  induction before generalizing i v with
  | nil => exact ⟨v, rfl⟩
  | cons cmd before ih =>
    obtain ⟨legal, legalRest⟩ := List.forall_mem_cons.mp h
    obtain ⟨r, hr⟩ := transact_of_legal legal v
    obtain ⟨v', hv'⟩ := ih legalRest (i + 1) r
    refine ⟨v', ?_⟩
    rw [List.cons_append, chainFrom_of_result hr, hv', List.length_cons, Nat.add_assoc, Nat.add_comm 1]

/-- Settles O58: behind the legal words the chain ends with the value it holds, or at the reserved word. -/
theorem chainStopsAtTheFirstReservedWord : Obligations.ChainStopsAtTheFirstReservedWord := by
  refine ⟨fun program v h => ?_, fun before after w v h hw => ?_⟩
  · obtain ⟨v', hv'⟩ := chainFrom_append_of_legal h 1 [] v
    rw [List.append_nil] at hv'
    exact ⟨v', hv'⟩
  · obtain ⟨v', hv'⟩ := chainFrom_append_of_legal h 1 (w :: after) v
    rw [chain, hv', chainFrom_of_fault (transact_of_reserved hw v'), Nat.add_comm]

/-! ### The plan of the chaining host -/

/-- The responses that the chaining host's plan asks for. -/
def chainResponses (lat : Nat) (program : List CmdWord) (v : Value256) : List Response :=
  (chainPlan lat program v).filterMap PortsIn.response?

@[simp] theorem chainResponses_nil (lat : Nat) (v : Value256) : chainResponses lat [] v = [] := rfl

/-- The cycles in which the host waits ask for nothing. -/
theorem filterMap_response?_waiting (lat : Nat) :
    (List.replicate lat PortsIn.idle).filterMap PortsIn.response? = [] :=
  List.filterMap_replicate_of_none PortsIn.response?_idle

theorem chainResponses_of_result {cmd : CmdWord} {v r : Value256} (h : transact cmd v = .result r) (lat : Nat)
    (rest : List CmdWord) : chainResponses lat (cmd :: rest) v = .result r :: chainResponses lat rest r := by
  have asked : (PortsIn.request cmd v).response? = some (.result r) := congrArg some h
  simp only [chainResponses, chainPlan, h, List.filterMap_cons_some asked, List.filterMap_append,
    filterMap_response?_waiting, List.nil_append]

theorem chainResponses_of_fault {cmd : CmdWord} {v : Value256} {f : Fault} (h : transact cmd v = .fault f) (lat : Nat)
    (rest : List CmdWord) : chainResponses lat (cmd :: rest) v = [.fault f] := by
  have asked : (PortsIn.request cmd v).response? = some (.fault f) := congrArg some h
  simp only [chainResponses, chainPlan, h, List.filterMap_cons_some asked, List.append_nil,
    filterMap_response?_waiting]

/-- The chaining host never asserts reset. -/
theorem rst_of_mem_chainPlan {lat : Nat} {program : List CmdWord} {v : Value256} {p : PortsIn}
    (h : p ∈ chainPlan lat program v) : p.rst = false := by
  induction program generalizing v with
  | nil => cases h
  | cons cmd rest ih =>
    rw [chainPlan, List.mem_cons, List.mem_append] at h
    rcases h with rfl | hwait | hrest
    · rfl
    · rw [List.eq_of_mem_replicate hwait]; rfl
    · split at hrest
      · exact ih hrest
      · cases hrest

/-! ### The responses of a chain -/

/-- A chain that ends with a value is given one result a word, the value last. -/
theorem chainResponses_of_value (lat i : Nat) {program : List CmdWord} {v v' : Value256}
    (h : chainFrom i program v = .value v') :
    (∀ r ∈ chainResponses lat program v, r.isFault = false) ∧
    (chainResponses lat program v).length = program.length ∧
    (.result v :: chainResponses lat program v).getLast? = some (.result v') := by
  induction program generalizing i v with
  | nil => cases h; simp
  | cons cmd rest ih =>
    cases ht : transact cmd v with
    | result r =>
      rw [chainFrom_of_result ht] at h
      obtain ⟨noFault, length, last⟩ := ih (i + 1) h
      rw [chainResponses_of_result ht]
      exact ⟨List.forall_mem_cons.mpr ⟨rfl, noFault⟩, congrArg (· + 1) length, by rw [List.getLast?_cons_cons, last]⟩
    | fault f => cases (chainFrom_of_fault ht i rest).symm.trans h

/-- A chain that faults at a word is given a response for each word up to it, the fault last. -/
theorem chainResponses_of_faultedAt (lat i : Nat) {program : List CmdWord} {v : Value256} {j : Nat}
    (h : chainFrom i program v = .faultedAt j) :
    i + (chainResponses lat program v).length = j + 1 ∧
    (chainResponses lat program v).getLast? = some (.fault .illegalCommand) := by
  induction program generalizing i v with
  | nil => cases h
  | cons cmd rest ih =>
    cases ht : transact cmd v with
    | result r =>
      rw [chainFrom_of_result ht] at h
      obtain ⟨length, last⟩ := ih (i + 1) h
      rw [chainResponses_of_result ht, List.length_cons, List.getLast?_cons, last]
      exact ⟨by omega, rfl⟩
    | fault f =>
      cases f
      cases (chainFrom_of_fault ht i rest).symm.trans h
      rw [chainResponses_of_fault ht]
      exact ⟨rfl, rfl⟩

/-- Settles O59: the machine delivers what the plan asks for, and that is one response a word up to the chain's end. -/
theorem chainRunsOnTheMachine : Obligations.ChainRunsOnTheMachine := by
  intro lat program v
  have noReset : ∀ p ∈ PortsIn.idle :: chainPlan lat program v, p.rst = false :=
    List.forall_mem_cons.mpr ⟨rfl, fun _ => rst_of_mem_chainPlan⟩
  obtain ⟨t, hrun, hdelivered, hover⟩ := run_resetWith_delivers lat noReset
  rw [List.filterMap_cons_none PortsIn.response?_idle, ← chainResponses] at hdelivered
  refine ⟨t, hrun, hover, fun v' hvalue => ?_, fun i hfault => ?_⟩
  · obtain ⟨noFault, length, last⟩ := chainResponses_of_value lat 1 hvalue
    rw [← hdelivered] at noFault length last
    refine ⟨by simpa [State.faulted] using noFault, length, fun hnil => ?_, fun hne => ?_⟩
    · subst hnil
      cases hvalue
      rfl
    · have given : t.delivered ≠ [] := by rwa [← List.length_pos_iff, length, List.length_pos_iff]
      rwa [List.getLast?_cons_of_ne_nil given] at last
  · obtain ⟨length, last⟩ := chainResponses_of_faultedAt lat 1 hfault
    rw [← hdelivered] at length last
    exact ⟨by omega, last⟩

end Sys2Proof.Machine
end
